-- ==== Sys2Proof/Word.lean ====
section
/-! DEFINITION. The two unit widths of the block and the width of a register index (00_scope.md R9, 20_memory.md R60). -/

namespace Sys2Proof

/-- A byte, `u8`: 8 bits, unsigned (00_scope.md R9). -/
abbrev Byte := BitVec 8

/-- A 16-bit register value or protocol field, `u16` (00_scope.md R9). -/
abbrev Word := BitVec 16

/-- An index of the register index space, 12 bits, 0x000 to 0xFFF (20_memory.md R60). -/
abbrev RegIndex := BitVec 12

end Sys2Proof
end

