-- ==== Sys2Proof/Syntax.lean ====
section
/-! DEFINITION. The commands of the block: one constructor per row of the opcode map (30_encoding.md R81). A command has no
operand field; its operands are the registers its rule names (30_encoding.md R80). -/

namespace Sys2Proof

/-- The 13 commands (30_encoding.md R81). -/
inductive Instr where
  /-- `CRC16`: compute the CRC of the buffer (40_crc.md R135). -/
  | crc16
  /-- `CRCCHK`: validate the buffer as a frame (40_crc.md R136). -/
  | crcchk
  /-- `ENCQ`: encode a `Query` request (41_encoder.md R153). -/
  | encq
  /-- `ENCRD`: encode a `ReadRegisters` request (41_encoder.md R154). -/
  | encrd
  /-- `ENCWR`: encode a `WriteRegister` request (41_encoder.md R155). -/
  | encwr
  /-- `ENCWM`: encode a `WriteMultiRegisters` request (41_encoder.md R156). -/
  | encwm
  /-- `ENCRID`: encode a `SlaveIdReport` reply (41_encoder.md R157). -/
  | encrid
  /-- `ENCRRD`: encode a `ReadRegistersReply` reply (41_encoder.md R158). -/
  | encrrd
  /-- `ENCRWR`: encode a `WriteRegisterReply` reply (41_encoder.md R159). -/
  | encrwr
  /-- `ENCRWM`: encode a `WriteMultiRegistersReply` reply (41_encoder.md R160). -/
  | encrwm
  /-- `DECREQ`: validate and decode the buffer as a request (42_decoder.md R194). -/
  | decreq
  /-- `DECRPL`: validate and decode the buffer as a reply (42_decoder.md R199). -/
  | decrpl
  /-- `RXLEN`: expected total length of the reply in the buffer (42_decoder.md R222). -/
  | rxlen
  deriving DecidableEq, Repr

end Sys2Proof
end

