-- ==== Sys2Proof/Decode.lean ====
section
/-! DEFINITION. The command word (30_encoding.md R80, R81): the decoder, total on all 256 words and rejecting by name, and the
encoder, each written from the two fields of the word. -/

namespace Sys2Proof

/-- Why a command word is not a command. -/
inductive DecodeError where
  /-- The word is none of the 13 of the opcode map (30_encoding.md R82). -/
  | illegalCommand (word : Byte)
  deriving DecidableEq, Repr

/-- Bits 7:6 of the command word, the family (30_encoding.md R80). -/
def familyField (word : Byte) : BitVec 2 := word.extractLsb' 6 2

/-- Bits 5:0 of the command word, the operation within the family (30_encoding.md R80). -/
def opField (word : Byte) : BitVec 6 := word.extractLsb' 0 6

/-- The opcode map of 30_encoding.md R81, read by its two fields; any other word is rejected (R82). -/
def decode (word : Byte) : Except DecodeError Instr :=
  match (familyField word).toNat, (opField word).toNat with
  -- family 00, CRC unit
  | 0b00, 0x01 => .ok .crc16
  | 0b00, 0x02 => .ok .crcchk
  -- family 01, request encoder
  | 0b01, 0x01 => .ok .encq
  | 0b01, 0x02 => .ok .encrd
  | 0b01, 0x03 => .ok .encwr
  | 0b01, 0x04 => .ok .encwm
  -- family 10, reply encoder
  | 0b10, 0x01 => .ok .encrid
  | 0b10, 0x02 => .ok .encrrd
  | 0b10, 0x03 => .ok .encrwr
  | 0b10, 0x04 => .ok .encrwm
  -- family 11, decoder
  | 0b11, 0x01 => .ok .decreq
  | 0b11, 0x02 => .ok .decrpl
  | 0b11, 0x03 => .ok .rxlen
  | _, _ => .error (.illegalCommand word)

/-- The family of a command (30_encoding.md R80, R81). -/
def familyOf : Instr → BitVec 2
  | .crc16 | .crcchk => 0b00
  | .encq | .encrd | .encwr | .encwm => 0b01
  | .encrid | .encrrd | .encrwr | .encrwm => 0b10
  | .decreq | .decrpl | .rxlen => 0b11

/-- The operation of a command within its family (30_encoding.md R80, R81). -/
def opOf : Instr → BitVec 6
  | .crc16 | .encq | .encrid | .decreq => 0x01
  | .crcchk | .encrd | .encrrd | .decrpl => 0x02
  | .encwr | .encrwr | .rxlen => 0x03
  | .encwm | .encrwm => 0x04

/-- The command word of a command: family in bits 7:6, operation in bits 5:0 (30_encoding.md R80). -/
def encode (i : Instr) : Byte := familyOf i ++ opOf i

/-- The command the decoder reads from a table row's bits. A command word is 8 bits (30_encoding.md R80), so the row's
`nbits` bits are the whole word and bits above them are 0. -/
def decodeTableWord (nbits w : Nat) : Option Instr :=
  match decode (BitVec.ofNat 8 (w % 2 ^ nbits)) with
  | .ok i => some i
  | .error _ => none

end Sys2Proof
end

