-- ==== Sys2Proof/Config.lean ====
section
/-! DEFINITION. What is fixed when the block is built: the parameters of 00_scope.md R7 with their spec defaults, the fixed
constants of R7 and R8, and the free values the spec leaves open (the reset draws of the array cells, 10_state.md R40, R41). -/

namespace Sys2Proof

/-- The two values of the parameter `XLEN_WRITEM_RULE` (00_scope.md R7, 90_conflicts.md C2). -/
inductive XlenWritemRule where
  /-- `DOC_FORMULA`: RXLEN gives `7 + FB[2]` for a write-multiple reply. -/
  | docFormula
  /-- `LAYOUT`: RXLEN gives 8, the length of the layout of 30_encoding.md R93. -/
  | layout
  deriving DecidableEq, Repr

/-- The `OPEN` parameters of 00_scope.md R7. A model takes each as an argument: a block carries one value of this type in
its `State`, no step changes it, and a claim about every state is a claim about every choice of parameters
(DESIGN CHOICE, notes/assumptions/1.md). -/
structure Params where
  /-- `FC_QUERY`: the function code of the identification query and its reply. -/
  fcQuery : Byte
  /-- `FC_READ`: the function code of read registers and its reply. -/
  fcRead : Byte
  /-- `FC_WRITE`: the function code of write one register and its reply. -/
  fcWrite : Byte
  /-- `FC_WRITEM`: the function code of write multiple registers and its reply. -/
  fcWritem : Byte
  /-- `MIN_REPLY`: the lower bound RXLEN starts from. -/
  minReply : Word
  /-- `FB_SIZE`: the number of cells of the frame buffer. -/
  fbSize : Word
  /-- `XLEN_WRITEM_RULE`: which length RXLEN gives a write-multiple reply. -/
  xlenWritemRule : XlenWritemRule
  /-- `DEV_ADDR_RESET`: the value of `DEV_ADDR` after reset. -/
  devAddrReset : Byte
  deriving DecidableEq, Repr

namespace Config

/-- The spec defaults of 00_scope.md R7. The four function codes are the spec's defaults from general knowledge, not from
its source (PRESUMED by the spec itself, notes/assumptions/1.md). -/
def specDefaults : Params where
  fcQuery := 0x11
  fcRead := 0x03
  fcWrite := 0x06
  fcWritem := 0x10
  minReply := 5
  fbSize := 263
  xlenWritemRule := .docFormula
  devAddrReset := 0x01

/-- `DEFAULT_COUNT`, fixed (00_scope.md R7, 90_conflicts.md C1). -/
def defaultCount : Word := 1

/-- `MAX_READ_COUNT`, fixed (00_scope.md R7). -/
def maxReadCount : Word := 125

/-- `VAL_CAP`: the number of cells of `VAL` (00_scope.md R8). -/
def valCap : Nat := 127

/-- `STR_CAP`: the number of cells of `STR` (00_scope.md R8). -/
def strCap : Nat := 253

/-- FREE VALUE (10_state.md R40, R41; 93_implementation_defined.md U1): what cell `FB[i]` holds after a reset, until it is
written. The first argument numbers the reset, since every reset draws afresh (70_reset_and_hazards.md R270); the second is
`i`. It has no body: nothing can be proved about its values (notes/assumptions/2.md). -/
opaque fbDraw : Nat → Nat → Byte

/-- FREE VALUE: what cell `VAL[i]` holds after a reset, until it is written; arguments as for `fbDraw`. -/
opaque valDraw : Nat → Nat → Word

/-- FREE VALUE: what cell `STR[i]` holds after a reset, until it is written; arguments as for `fbDraw`. -/
opaque strDraw : Nat → Nat → Byte

end Config

end Sys2Proof
end

