-- ==== Sys2Proof/Machine/State.lean ====
section
/-! DEFINITION. The state of the block: every register and array of 10_state.md R20, and beside them the build parameters, the
number of the reset its free values belong to, and the host's side of the register port (20_memory.md R61). -/

namespace Sys2Proof.Machine

/-- One access of the host, the block's only other agent (00_scope.md R6): the two register primitives of 20_memory.md R61
and the reset action of 70_reset_and_hazards.md R270. -/
inductive HostAccess where
  /-- `RegRead(idx)`. -/
  | read (idx : RegIndex)
  /-- `RegWrite(idx, v)`. A write to `CMD` runs a command. -/
  | write (idx : RegIndex) (v : Word)
  /-- `Reset()`. -/
  | reset
  deriving DecidableEq, Repr

/-- The reasons a step could stop with a fault. THERE ARE NONE: "No behaviour of the block is undefined"
(93_implementation_defined.md section 2) and the block has no trap (60_exceptions.md R244), so the type has no constructor
and no step can fault (notes/assumptions/8.md). -/
inductive Fault where
  deriving DecidableEq, Repr

/-- The reasons a step could refuse. -/
inductive Refusal where
  /-- Raised only by an arm of `exec` whose command has no meaning yet; safe. Every command has its meaning, so nothing
  raises it. -/
  | notModelled (mnemonic : String)
  deriving DecidableEq, Repr

/-- The state of one block and of the host's port to it. `CMD` is no field: it "holds no value after the write"
(10_state.md R22). -/
structure State where
  /-- The build parameters (00_scope.md R7); no step changes them. The MODEL's field, notes/assumptions/1.md. -/
  params : Params
  /-- `STATUS`, 16 bits (10_state.md R31). -/
  status : Word
  /-- `DEV_ADDR`, 8 bits (10_state.md R23). -/
  devAddr : Byte
  /-- `ARG0`, 16 bits (10_state.md R24). -/
  arg0 : Word
  /-- `ARG1`, 16 bits (10_state.md R25). -/
  arg1 : Word
  /-- `FB_LEN`, 16 bits (10_state.md R26). -/
  fbLen : Word
  /-- `FB[0..FB_SIZE)`, one byte a cell, cell 0 first (10_state.md R26). -/
  fb : List Byte
  /-- `VAL_N`, 8 bits (10_state.md R27). -/
  valN : Byte
  /-- `VAL[0..127)`, 16 bits a cell, cell 0 first (10_state.md R27). -/
  val : List Word
  /-- `STR_LEN`, 8 bits (10_state.md R28). -/
  strLen : Byte
  /-- `STR[0..253)`, one byte a cell, cell 0 first (10_state.md R28). -/
  str : List Byte
  /-- `CRC`, 16 bits (10_state.md R29). -/
  crc : Word
  /-- `XLEN`, 16 bits (10_state.md R30). -/
  xlen : Word
  /-- `RES_KIND`, 8 bits (10_state.md R33). -/
  resKind : Byte
  /-- `RES_ADDR`, 8 bits (10_state.md R34). -/
  resAddr : Byte
  /-- `RES_FC`, 8 bits (10_state.md R34). -/
  resFc : Byte
  /-- `RES_F0`, 16 bits (10_state.md R35). -/
  resF0 : Word
  /-- `RES_F1`, 16 bits (10_state.md R35). -/
  resF1 : Word
  /-- `RES_F2`, 16 bits (10_state.md R35). -/
  resF2 : Word
  /-- `RES_BC`, 8 bits (10_state.md R35). -/
  resBc : Byte
  /-- How many `Reset()` actions came before the present power-up state: it numbers the draws of the array cells
  (70_reset_and_hazards.md R270). The MODEL's field, notes/assumptions/3.md. -/
  resets : Nat
  /-- The host accesses still to come, the next one first (20_memory.md R70). The MODEL's field, notes/assumptions/4.md. -/
  pending : List HostAccess
  /-- What the host's `RegRead`s have returned, the latest first (20_memory.md R61). The MODEL's field,
  notes/assumptions/5.md. -/
  readLog : List Word
  deriving DecidableEq, Repr

/-- A block built with the parameters `p` as reset number `k` leaves it (10_state.md R40): every register at the table's
value, every array cell at its draw. -/
def State.afterReset (p : Params) (k : Nat) : State where
  params := p
  status := 0x0000
  devAddr := p.devAddrReset
  arg0 := 0x0000
  arg1 := 0x0000
  fbLen := 0
  fb := (List.range p.fbSize.toNat).map (Config.fbDraw k)
  valN := 0
  val := (List.range Config.valCap).map (Config.valDraw k)
  strLen := 0
  str := (List.range Config.strCap).map (Config.strDraw k)
  crc := 0x0000
  xlen := 0x0000
  resKind := 0
  resAddr := 0x00
  resFc := 0x00
  resF0 := 0x0000
  resF1 := 0x0000
  resF2 := 0x0000
  resBc := 0x00
  resets := k
  pending := []
  readLog := []

/-- The machine right after its first reset, built with the spec defaults and with no host access queued
(10_state.md R40; `resets`, `pending` and `readLog` are DESIGN CHOICE, notes/assumptions/3.md to 5.md). -/
def State.reset : State := State.afterReset Config.specDefaults 0

end Sys2Proof.Machine
end

