-- ==== Sys2Proof/Machine/Flags.lean ====
section
/-! DEFINITION. `STATUS`: its bits (10_state.md R31) and the one way a command writes it. The error bits are the block's whole
error mechanism: it has no trap (60_exceptions.md R241, R244). -/

namespace Sys2Proof.Machine

/-- The named bits of `STATUS` (10_state.md R31). -/
inductive StatusBit where
  /-- The command completed without error. -/
  | ok
  /-- A CRC check failed. -/
  | crcErr
  /-- The buffer is too short, too long, or not the length the frame layout gives. -/
  | lenErr
  /-- The function-code byte is not one of the four `FC_*` values. -/
  | fcErr
  /-- A byte-count field is inconsistent with the layout. -/
  | fmtErr
  /-- DECREQ found an address byte other than `DEV_ADDR`. -/
  | addrErr
  /-- An encoder's arguments are not encodable. -/
  | usageErr
  /-- The opcode written to `CMD` is not a command. -/
  | cmdErr
  /-- A read count was replaced by `DEFAULT_COUNT`. -/
  | clamped
  /-- RXLEN inspected the header. -/
  | xfinal
  /-- RXLEN found `FB_LEN >= XLEN`. -/
  | xdone
  deriving DecidableEq, Repr

/-- The bit's number in `STATUS`; for an error bit, its cause code (10_state.md R31, 60_exceptions.md R241). -/
def StatusBit.number : StatusBit → Nat
  | .ok => 0
  | .crcErr => 1
  | .lenErr => 2
  | .fcErr => 3
  | .fmtErr => 4
  | .addrErr => 5
  | .usageErr => 6
  | .cmdErr => 7
  | .clamped => 8
  | .xfinal => 9
  | .xdone => 10

/-- The word with exactly the named bits set: "Every bit not named is written 0" (00_scope.md R11). -/
def statusWord (bits : List StatusBit) : Word :=
  bits.foldr (fun b w => (1#16 <<< b.number) ||| w) 0#16

/-- Whether a bit of a `STATUS` value is set. -/
def statusHas (w : Word) (b : StatusBit) : Bool := w.getLsbD b.number

/-- `set_status(bits)`: `STATUS` is written whole (10_state.md R31). -/
def setStatus (bits : List StatusBit) (s : State) : State :=
  { s with status := statusWord bits }

/-- `b` if the condition holds, else no bit ("`extra` is CLAMPED or nothing", 41_encoder.md R150). -/
def bitIf (c : Prop) [Decidable c] (b : StatusBit) : List StatusBit := if c then [b] else []

end Sys2Proof.Machine
end

