-- ==== Sys2Proof/Machine/Operands.lean ====
section
/-! DEFINITION. Operand forms: the byte-level helpers of 00_scope.md R10, the assembly of frame fields (30_encoding.md R95),
the two readings of a value (42_decoder.md R205), the read-count clamp (41_encoder.md R151), and the codes of `RES_KIND`
(10_state.md R33). -/

namespace Sys2Proof.Machine

/-- `hi8(v) = v[15:8]` (00_scope.md R10). -/
def hi8 (v : Word) : Byte := v.extractLsb' 8 8

/-- `lo8(v) = v[7:0]` (00_scope.md R10); also an 8-bit field taken from a 16-bit argument register, and the value a write
leaves in an 8-bit register (30_encoding.md R95, 20_memory.md R65). -/
def lo8 (v : Word) : Byte := v.extractLsb' 0 8

/-- `be16(h, l) = h * 256 + l`, a big-endian pair (00_scope.md R10). -/
def be16 (h l : Byte) : Word := h ++ l

/-- `le16(l, h) = h * 256 + l`, a little-endian pair (00_scope.md R10). -/
def le16 (l h : Byte) : Word := h ++ l

/-- `zext_16` of a byte (00_scope.md R10). -/
def zext16 (b : Byte) : Word := b.setWidth 16

/-- `sext_16(v)`: the signed reading of a value's 16-bit pattern (00_scope.md R10, 42_decoder.md R205). The block itself
applies no reading (notes/assumptions/15.md). -/
def sext16 (v : Word) : Int := v.toInt

/-- `s[i]`, the byte at offset `i` of a byte sequence (00_scope.md R10). Past the end it reads 0, which no command of a
block with whole arrays does (notes/assumptions/7.md). -/
def byteAt (s : List Byte) (i : Nat) : Byte := s.getD i 0

/-- `s[i..j)`: the bytes at offsets `i` to `j-1`, empty when `j <= i` (00_scope.md R10). -/
def slice (s : List Byte) (i j : Nat) : List Byte := (s.take j).drop i

/-- The 16-bit field at offset `o` of a frame: `be16(b[o], b[o+1])` (30_encoding.md R95). -/
def field16 (b : List Byte) (o : Nat) : Word := be16 (byteAt b o) (byteAt b (o + 1))

/-- The two bytes of a 16-bit field on the wire, high byte first (30_encoding.md R84, R95). -/
def wireBytes (v : Word) : List Byte := [hi8 v, lo8 v]

/-- The bytes of a list of values on the wire, in order (30_encoding.md R89, R91). -/
def valuesToWire (vs : List Word) : List Byte := vs.flatMap wireBytes

/-- The `k` values that stand from offset `o` of a frame (42_decoder.md R198, R201). -/
def valuesFromWire (b : List Byte) (o k : Nat) : List Word :=
  (List.range k).map fun i => field16 b (o + 2 * i)

/-- `clamp(c)`: a read count outside `[1, MAX_READ_COUNT]` becomes `DEFAULT_COUNT` (41_encoder.md R151). -/
def clamp (c : Word) : Word :=
  if 1 ≤ c ∧ c ≤ Config.maxReadCount then c else Config.defaultCount

/-- `RES_KIND` codes (10_state.md R33). -/
def kindInvalid : Byte := 0
def kindReqQuery : Byte := 1
def kindReqRead : Byte := 2
def kindReqWrite : Byte := 3
def kindReqWritem : Byte := 4
def kindRplId : Byte := 5
def kindRplRead : Byte := 6
def kindRplWrite : Byte := 7
def kindRplWritem : Byte := 8

end Sys2Proof.Machine
end

