-- ==== Sys2Proof/Machine/Ops.lean ====
section
/-! DEFINITION. The shared operations: the CRC function (40_crc.md), the frame buffer and the arrays, the common endings of the
encoders and the decoders (41_encoder.md R150, R152; 42_decoder.md R191, R192), the error a command word that names no command
takes (60_exceptions.md R246), the host's register reads and stores (20_memory.md R62 to R65), and the reset action
(70_reset_and_hazards.md R270). The block has no trap entry and no trap return (60_exceptions.md R244, R245): its error actions
`usageError`, `sentinel` and `illegalCommand` stand in that place. -/

namespace Sys2Proof.Machine

/-! ### The CRC function -/

/-- One of the eight shifts of a byte step: a logical right shift, then the XOR with `0xA001` when bit 0 was 1
(40_crc.md R131). -/
def crcBit (c : Word) : Word := if c.getLsbD 0 then (c >>> 1) ^^^ 0xA001 else c >>> 1

/-- `n` shifts one after another. -/
def crcBits : Nat → Word → Word
  | 0, c => c
  | n + 1, c => crcBits n (crcBit c)

/-- `crc_step(c, b)` (40_crc.md R131). -/
def crcStep (c : Word) (b : Byte) : Word := crcBits 8 (c ^^^ zext16 b)

/-- `crc16(s)`: initial register `0xFFFF`, no final XOR, defined on the empty sequence too (40_crc.md R132). -/
def crc16 (s : List Byte) : Word := s.foldl crcStep 0xFFFF

/-- `validate(f)`: the residue over the whole sequence is 0 (40_crc.md R134). -/
def validate (f : List Byte) : Bool := crc16 f == 0

/-- A body with its CRC appended, low byte first (40_crc.md R133). -/
def appendCrc (body : List Byte) : List Byte := body ++ [lo8 (crc16 body), hi8 (crc16 body)]

/-! ### The arrays -/

/-- The cells of every array are there: `FB` has `FB_SIZE` cells, `VAL` 127 and `STR` 253 (10_state.md R20). With one value
a cell, the arrays have one form only, and equal arrays are equal lists (notes/assumptions/6.md). -/
abbrev Memory.wf (s : State) : Prop :=
  s.fb.length = s.params.fbSize.toNat ∧ s.val.length = Config.valCap ∧ s.str.length = Config.strCap

/-- `FB[0..FB_LEN)`, the frame in the buffer (10_state.md R26). -/
def frame (s : State) : List Byte := s.fb.take s.fbLen.toNat

/-- The first `VAL_N` values, `VAL[0..VAL_N)` (10_state.md R27). -/
def values (s : State) : List Word := s.val.take s.valN.toNat

/-- The string `STR[0..STR_LEN)` (10_state.md R28). -/
def string (s : State) : List Byte := s.str.take s.strLen.toNat

/-- Cells with `xs` written from offset 0 on; the cells past `xs` keep what they hold (41_encoder.md R150, 42_decoder.md
R192, 93_implementation_defined.md U2). -/
def storeAtFront {α : Type} (xs cells : List α) : List α := xs ++ cells.drop xs.length

/-- "`FB_LEN <= FB_SIZE`", which every command that reads the frame buffer checks first (20_memory.md R69). -/
abbrev bufferInBound (s : State) : Prop := s.fbLen.toNat ≤ s.params.fbSize.toNat

/-! ### The common endings of the encoders -/

/-- `emit(body, extra)`: the frame in `FB`, its length in `FB_LEN`, the appended CRC in `CRC` (41_encoder.md R150). -/
def emit (body : List Byte) (extra : List StatusBit) (s : State) : State :=
  { s with
    fb := storeAtFront (appendCrc body) s.fb
    fbLen := BitVec.ofNat 16 (body.length + 2)
    crc := crc16 body
    status := statusWord (.ok :: extra) }

/-- `usage_error()`: no frame; `FB` and `CRC` keep what they hold (41_encoder.md R152). -/
def usageError (s : State) : State :=
  { s with fbLen := 0, status := statusWord [.usageErr] }

/-! ### The common endings of the decoders -/

/-- What a decoder found: the arguments of `result` (42_decoder.md R192). -/
structure Decoded where
  kind : Byte
  f0 : Word
  f1 : Word
  f2 : Word
  bc : Byte
  vals : List Word
  str : List Byte
  extra : List StatusBit
  deriving DecidableEq, Repr

/-- `result(...)`: the fields of a decoded frame; cells past `vals` and `str` keep what they hold (42_decoder.md R192). -/
def result (d : Decoded) (s : State) : State :=
  { s with
    resKind := d.kind
    resAddr := byteAt (frame s) 0
    resFc := byteAt (frame s) 1
    resF0 := d.f0
    resF1 := d.f1
    resF2 := d.f2
    resBc := d.bc
    val := storeAtFront d.vals s.val
    valN := BitVec.ofNat 8 d.vals.length
    str := storeAtFront d.str s.str
    strLen := BitVec.ofNat 8 d.str.length
    status := statusWord (.ok :: d.extra) }

/-- `sentinel(err)`: every result register and both lengths 0, no array cell written (42_decoder.md R191). -/
def sentinel (err : StatusBit) (s : State) : State :=
  { s with
    resKind := kindInvalid
    resAddr := 0
    resFc := 0
    resF0 := 0
    resF1 := 0
    resF2 := 0
    resBc := 0
    valN := 0
    strLen := 0
    status := statusWord [err] }

/-- The end of a decoder command: `result` or `sentinel` (42_decoder.md R190). -/
def finishDecode (verdict : Except StatusBit Decoded) (s : State) : State :=
  match verdict with
  | .ok d => result d s
  | .error err => sentinel err s

/-! ### The illegal command -/

/-- A command word that names no command sets `CMD_ERR` and changes nothing else (60_exceptions.md R246). -/
def illegalCommand (s : State) : State := setStatus [.cmdErr] s

/-! ### The host's register accesses -/

/-- The registers and cells an index can name (20_memory.md R62). -/
inductive Reg where
  | cmd | status | devAddr | arg0 | arg1 | fbLen | valN | strLen | crc | xlen
  | resKind | resAddr | resFc | resF0 | resF1 | resF2 | resBc
  | fb (i : Nat) | val (i : Nat) | str (i : Nat)
  deriving DecidableEq, Repr

/-- The index of a register or cell, `index(REG)` (20_memory.md R62, 30_encoding.md R97). -/
def Reg.index : Reg → Nat
  | .cmd => 0x000 | .status => 0x001 | .devAddr => 0x002 | .arg0 => 0x003 | .arg1 => 0x004 | .fbLen => 0x005
  | .valN => 0x006 | .strLen => 0x007 | .crc => 0x008 | .xlen => 0x009 | .resKind => 0x00A | .resAddr => 0x00B
  | .resFc => 0x00C | .resF0 => 0x00D | .resF1 => 0x00E | .resF2 => 0x00F | .resBc => 0x010
  | .fb i => 0x100 + i | .val i => 0x300 + i | .str i => 0x400 + i

/-- The cell an index from `0x100` on names (20_memory.md R62). -/
def arrayCellAt (p : Params) (n : Nat) : Option Reg :=
  if n < 0x300 then
    (if n - 0x100 < p.fbSize.toNat then some (.fb (n - 0x100)) else none)
  else if n < 0x400 then
    (if n - 0x300 < Config.valCap then some (.val (n - 0x300)) else none)
  else
    (if n - 0x400 < Config.strCap then some (.str (n - 0x400)) else none)

/-- The registers of the indices `0x000` to `0x010`, in the order of the index map (20_memory.md R62). -/
def namedRegs : List Reg :=
  [.cmd, .status, .devAddr, .arg0, .arg1, .fbLen, .valN, .strLen, .crc, .xlen, .resKind, .resAddr, .resFc, .resF0, .resF1,
    .resF2, .resBc]

/-- The register index map (20_memory.md R62); `none` is a reserved index. -/
def regAt (p : Params) (idx : RegIndex) : Option Reg :=
  if idx.toNat < 0x100 then namedRegs[idx.toNat]? else arrayCellAt p idx.toNat

/-- The value of a register or cell, zero-extended to 16 bits; `CMD` reads 0 (20_memory.md R61, R64). -/
def readReg (r : Reg) (s : State) : Word :=
  match r with
  | .cmd => 0
  | .status => s.status
  | .devAddr => zext16 s.devAddr
  | .arg0 => s.arg0
  | .arg1 => s.arg1
  | .fbLen => s.fbLen
  | .valN => zext16 s.valN
  | .strLen => zext16 s.strLen
  | .crc => s.crc
  | .xlen => s.xlen
  | .resKind => zext16 s.resKind
  | .resAddr => zext16 s.resAddr
  | .resFc => zext16 s.resFc
  | .resF0 => s.resF0
  | .resF1 => s.resF1
  | .resF2 => s.resF2
  | .resBc => zext16 s.resBc
  | .fb i => zext16 (byteAt s.fb i)
  | .val i => s.val.getD i 0
  | .str i => zext16 (byteAt s.str i)

/-- `RegRead(idx)`; a reserved index returns 0 (20_memory.md R61, R63). -/
def regRead (idx : RegIndex) (s : State) : Word :=
  match regAt s.params idx with
  | some r => readReg r s
  | none => 0

/-- A store to a register or cell, truncated to its width; a read-only register keeps its value, and `CMD` stores none
(20_memory.md R64, R65; 10_state.md R22). -/
def storeReg (r : Reg) (v : Word) (s : State) : State :=
  match r with
  | .devAddr => { s with devAddr := lo8 v }
  | .arg0 => { s with arg0 := v }
  | .arg1 => { s with arg1 := v }
  | .fbLen => { s with fbLen := v }
  | .valN => { s with valN := lo8 v }
  | .strLen => { s with strLen := lo8 v }
  | .fb i => { s with fb := s.fb.set i (lo8 v) }
  | .val i => { s with val := s.val.set i v }
  | .str i => { s with str := s.str.set i (lo8 v) }
  | .cmd | .status | .crc | .xlen | .resKind | .resAddr | .resFc | .resF0 | .resF1 | .resF2 | .resBc => s

/-- The host sees what a `RegRead` returns (20_memory.md R61); the block's registers do not change (R66). -/
def returnToHost (v : Word) (s : State) : State := { s with readLog := v :: s.readLog }

/-! ### Reset -/

/-- `Reset()`: every register at its reset value and a fresh draw for every cell (70_reset_and_hazards.md R270). The build
parameters stand, and the host's own accesses and what it has read are not the block's to lose. -/
def hostReset (s : State) : State :=
  { State.afterReset s.params (s.resets + 1) with pending := s.pending, readLog := s.readLog }

end Sys2Proof.Machine
end

