-- ==== Sys2Proof/Machine/CrcUnit.lean ====
section
/-! DEFINITION. The CRC unit's commands (40_crc.md R135, R136). -/

namespace Sys2Proof.Machine

/-- `CRC16` (40_crc.md R135). -/
def execCrc16 (s : State) : Host.Outcome State Fault Refusal :=
  if bufferInBound s then
    .next { s with crc := crc16 (frame s), status := statusWord [.ok] }
  else
    .next (setStatus [.lenErr] s)

/-- The verdict of `CRCCHK` on a buffer within its bound (40_crc.md R136). -/
def crcchkVerdict (s : State) : StatusBit :=
  if s.fbLen.toNat < 2 then .lenErr
  else if validate (frame s) then .ok
  else .crcErr

/-- `CRCCHK`: the residue goes to `CRC` also when the verdict is an error (40_crc.md R136). -/
def execCrcchk (s : State) : Host.Outcome State Fault Refusal :=
  if bufferInBound s then
    .next { s with crc := crc16 (frame s), status := statusWord [crcchkVerdict s] }
  else
    .next (setStatus [.lenErr] s)

end Sys2Proof.Machine
end

