-- ==== Sys2Proof/Machine/Decoder.lean ====
section
/-! DEFINITION. The decoders and the reply-length predictor (42_decoder.md R194 to R223). A decoder's checks give a verdict, the
first failing check in the order of 60_exceptions.md R243 or the decoded fields; `finishDecode` writes it. -/

namespace Sys2Proof.Machine

/-! ### DECREQ -/

/-- The layout length a request's function code gives, over the `n` bytes `b` (42_decoder.md R194, 30_encoding.md R94). -/
def requestLength (p : Params) (b : List Byte) (n : Nat) : Except StatusBit Nat :=
  if byteAt b 1 = p.fcQuery then .ok 4
  else if byteAt b 1 = p.fcRead then .ok 8
  else if byteAt b 1 = p.fcWrite then .ok 8
  else if byteAt b 1 = p.fcWritem then
    (if n < 9 then .error .lenErr else .ok (9 + (byteAt b 6).toNat))
  else .error .fcErr

/-- A decoded frame that carries two 16-bit fields and nothing else. -/
def twoFields (kind : Byte) (b : List Byte) : Decoded :=
  { kind := kind, f0 := field16 b 2, f1 := field16 b 4, f2 := 0, bc := 0, vals := [], str := [], extra := [] }

/-- A `Query` request has no field (42_decoder.md R195). -/
def queryFields : Decoded :=
  { kind := kindReqQuery, f0 := 0, f1 := 0, f2 := 0, bc := 0, vals := [], str := [], extra := [] }

/-- A `ReadRegisters` request: the count is served clamped and kept raw (42_decoder.md R196). -/
def readFields (b : List Byte) : Decoded :=
  { kind := kindReqRead, f0 := field16 b 2, f1 := clamp (field16 b 4), f2 := field16 b 4, bc := 0, vals := [], str := [],
    extra := bitIf (clamp (field16 b 4) ≠ field16 b 4) .clamped }

/-- A `WriteMultiRegisters` request: the byte count is twice the count, or `FMT_ERR` (42_decoder.md R198). -/
def writemFields (b : List Byte) : Except StatusBit Decoded :=
  if (byteAt b 6).toNat ≠ 2 * (field16 b 4).toNat then .error .fmtErr
  else .ok
    { kind := kindReqWritem, f0 := field16 b 2, f1 := field16 b 4, f2 := 0, bc := byteAt b 6,
      vals := valuesFromWire b 7 (field16 b 4).toNat, str := [], extra := [] }

/-- The dispatch on the function code, once the length is the layout length (42_decoder.md R194). -/
def requestFields (p : Params) (b : List Byte) : Except StatusBit Decoded :=
  if byteAt b 1 = p.fcQuery then .ok queryFields
  else if byteAt b 1 = p.fcRead then .ok (readFields b)
  else if byteAt b 1 = p.fcWrite then .ok (twoFields kindReqWrite b)
  else writemFields b

/-- The checks of DECREQ that follow the buffer bound, over the frame `b` of `n` bytes (42_decoder.md R194). -/
def requestVerdict (p : Params) (devAddr : Byte) (b : List Byte) (n : Nat) : Except StatusBit Decoded :=
  if n < 4 then .error .lenErr
  else if byteAt b 0 ≠ devAddr then .error .addrErr
  else if ¬ validate b then .error .crcErr
  else match requestLength p b n with
    | .error err => .error err
    | .ok len => if n ≠ len then .error .lenErr else requestFields p b

/-- What DECREQ finds (42_decoder.md R194). -/
def decodeRequest (s : State) : Except StatusBit Decoded :=
  if bufferInBound s then requestVerdict s.params s.devAddr (frame s) s.fbLen.toNat
  else .error .lenErr

/-- `DECREQ` (42_decoder.md R194). -/
def execDecreq (s : State) : Host.Outcome State Fault Refusal := .next (finishDecode (decodeRequest s) s)

/-! ### DECRPL -/

/-- The layout length a reply's function code gives, over the `n` bytes `b` (42_decoder.md R199, 30_encoding.md R94). -/
def replyLength (p : Params) (b : List Byte) (n : Nat) : Except StatusBit Nat :=
  if byteAt b 1 = p.fcQuery ∨ byteAt b 1 = p.fcRead then
    (if n < 3 then .error .lenErr else .ok (5 + (byteAt b 2).toNat))
  else if byteAt b 1 = p.fcWrite ∨ byteAt b 1 = p.fcWritem then .ok 8
  else .error .fcErr

/-- A `SlaveIdReport` reply (42_decoder.md R200). -/
def idFields (b : List Byte) : Except StatusBit Decoded :=
  if (byteAt b 2).toNat < 2 then .error .fmtErr
  else .ok
    { kind := kindRplId, f0 := zext16 (byteAt b 3), f1 := zext16 (byteAt b 4), f2 := 0, bc := byteAt b 2, vals := [],
      str := slice b 5 (5 + (byteAt b 2).toNat - 2), extra := [] }

/-- A `ReadRegistersReply` reply (42_decoder.md R201). -/
def readReplyFields (b : List Byte) : Except StatusBit Decoded :=
  if (byteAt b 2).toNat % 2 = 1 then .error .fmtErr
  else .ok
    { kind := kindRplRead, f0 := 0, f1 := 0, f2 := 0, bc := byteAt b 2,
      vals := valuesFromWire b 3 ((byteAt b 2).toNat / 2), str := [], extra := [] }

/-- The dispatch on the function code, once the CRC has passed (42_decoder.md R199). -/
def replyFields (p : Params) (b : List Byte) : Except StatusBit Decoded :=
  if byteAt b 1 = p.fcQuery then idFields b
  else if byteAt b 1 = p.fcRead then readReplyFields b
  else if byteAt b 1 = p.fcWrite then .ok (twoFields kindRplWrite b)
  else .ok (twoFields kindRplWritem b)

/-- The checks of DECRPL that follow the buffer bound, over the `n` bytes `b`; bytes past the layout length are ignored
(42_decoder.md R199, R204). -/
def replyVerdict (p : Params) (b : List Byte) (n : Nat) : Except StatusBit Decoded :=
  if n < 2 then .error .lenErr
  else match replyLength p b n with
    | .error err => .error err
    | .ok len =>
      if n < len then .error .lenErr
      else if ¬ validate (b.take len) then .error .crcErr
      else replyFields p b

/-- What DECRPL finds (42_decoder.md R199). -/
def decodeReply (s : State) : Except StatusBit Decoded :=
  if bufferInBound s then replyVerdict s.params (frame s) s.fbLen.toNat
  else .error .lenErr

/-- `DECRPL` (42_decoder.md R199). -/
def execDecrpl (s : State) : Host.Outcome State Fault Refusal := .next (finishDecode (decodeReply s) s)

/-! ### RXLEN -/

/-- The total length RXLEN's formula gives, from the function code `fc` and the byte `x` at offset 2; no formula for an
unsupported code (42_decoder.md R222, R223; notes/assumptions/10.md). -/
def replyFormula (p : Params) (fc x : Byte) : Option Word :=
  if fc = p.fcQuery ∨ fc = p.fcRead then some (5 + zext16 x)
  else if fc = p.fcWrite then some 8
  else if fc = p.fcWritem then
    (match p.xlenWritemRule with
      | .docFormula => some (7 + zext16 x)
      | .layout => some 8)
  else none

/-- `RXLEN` on a buffer of at least `MIN_REPLY` bytes (42_decoder.md R222, R223). -/
def predictLength (s : State) : State :=
  match replyFormula s.params (byteAt s.fb 1) (byteAt s.fb 2) with
  | some x => { s with xlen := x, status := statusWord ([.ok, .xfinal] ++ bitIf (x ≤ s.fbLen) .xdone) }
  | none => { s with xlen := s.params.minReply, status := statusWord [.fcErr, .xfinal, .xdone] }

/-- `RXLEN` (42_decoder.md R222). -/
def execRxlen (s : State) : Host.Outcome State Fault Refusal :=
  if ¬ bufferInBound s then .next { s with xlen := 0, status := statusWord [.lenErr] }
  else if s.fbLen < s.params.minReply then
    .next { s with xlen := s.params.minReply, status := statusWord [.ok] }
  else .next (predictLength s)

end Sys2Proof.Machine
end

