-- ==== Sys2Proof/Machine/ReplyEncoder.lean ====
section
/-! DEFINITION. The reply encoders (41_encoder.md R157 to R160). -/

namespace Sys2Proof.Machine

/-- The body of an identification reply (41_encoder.md R157, 30_encoding.md R90). -/
def encridBody (s : State) : List Byte :=
  [s.devAddr, s.params.fcQuery, BitVec.ofNat 8 (s.strLen.toNat + 2), lo8 s.arg0, lo8 s.arg1] ++ string s

/-- `ENCRID`: refuses a string longer than 253 bytes (41_encoder.md R157). -/
def execEncrid (s : State) : Host.Outcome State Fault Refusal :=
  if Config.strCap < s.strLen.toNat then .next (usageError s)
  else .next (emit (encridBody s) [] s)

/-- The body of a read reply (41_encoder.md R158, 30_encoding.md R91). -/
def encrrdBody (s : State) : List Byte :=
  [s.devAddr, s.params.fcRead, BitVec.ofNat 8 (2 * s.valN.toNat)] ++ valuesToWire (values s)

/-- `ENCRRD`: refuses a count outside `[1, 125]` (41_encoder.md R158). -/
def execEncrrd (s : State) : Host.Outcome State Fault Refusal :=
  if s.valN.toNat < 1 ∨ Config.maxReadCount.toNat < s.valN.toNat then .next (usageError s)
  else .next (emit (encrrdBody s) [] s)

/-- `ENCRWR`: the reply echoes the request (41_encoder.md R159). -/
def execEncrwr (s : State) : Host.Outcome State Fault Refusal :=
  .next (emit ([s.devAddr, s.params.fcWrite] ++ wireBytes s.arg0 ++ wireBytes s.arg1) [] s)

/-- `ENCRWM`: address and count, the written values left out (41_encoder.md R160). -/
def execEncrwm (s : State) : Host.Outcome State Fault Refusal :=
  .next (emit ([s.devAddr, s.params.fcWritem] ++ wireBytes s.arg0 ++ wireBytes s.arg1) [] s)

end Sys2Proof.Machine
end

