-- ==== Sys2Proof/Machine/RequestEncoder.lean ====
section
/-! DEFINITION. The request encoders (41_encoder.md R153 to R156). -/

namespace Sys2Proof.Machine

/-- `ENCQ`: `[DEV_ADDR, FC_QUERY]` and no payload (41_encoder.md R153). -/
def execEncq (s : State) : Host.Outcome State Fault Refusal :=
  .next (emit [s.devAddr, s.params.fcQuery] [] s)

/-- `ENCRD`: the count is clamped, and `CLAMPED` says that it was (41_encoder.md R154). -/
def execEncrd (s : State) : Host.Outcome State Fault Refusal :=
  .next (emit ([s.devAddr, s.params.fcRead] ++ wireBytes s.arg0 ++ wireBytes (clamp s.arg1))
    (bitIf (clamp s.arg1 ≠ s.arg1) .clamped) s)

/-- `ENCWR` (41_encoder.md R155). -/
def execEncwr (s : State) : Host.Outcome State Fault Refusal :=
  .next (emit ([s.devAddr, s.params.fcWrite] ++ wireBytes s.arg0 ++ wireBytes s.arg1) [] s)

/-- The body of a write-multiple request: address, count, byte count, values (41_encoder.md R156, 30_encoding.md R89). -/
def encwmBody (s : State) : List Byte :=
  [s.devAddr, s.params.fcWritem] ++ wireBytes s.arg0 ++ wireBytes (zext16 s.valN)
    ++ [BitVec.ofNat 8 (2 * s.valN.toNat)] ++ valuesToWire (values s)

/-- `ENCWM`: refuses more than 127 values, and a count argument other than the number of values (41_encoder.md R156). -/
def execEncwm (s : State) : Host.Outcome State Fault Refusal :=
  if Config.valCap < s.valN.toNat then .next (usageError s)
  else if s.arg1 ≠ zext16 s.valN then .next (usageError s)
  else .next (emit (encwmBody s) [] s)

end Sys2Proof.Machine
end

