-- ==== Sys2Proof/Machine/Dispatch.lean ====
section
/-! DEFINITION. The dispatch: one arm per command (30_encoding.md R81). -/

namespace Sys2Proof.Machine

def exec (i : Instr) (s : State) : Host.Outcome State Fault Refusal :=
  match i with
  -- CRC unit
  | .crc16 => Sys2Proof.Machine.execCrc16 s
  | .crcchk => Sys2Proof.Machine.execCrcchk s
  -- request encoder
  | .encq => Sys2Proof.Machine.execEncq s
  | .encrd => Sys2Proof.Machine.execEncrd s
  | .encwr => Sys2Proof.Machine.execEncwr s
  | .encwm => Sys2Proof.Machine.execEncwm s
  -- reply encoder
  | .encrid => Sys2Proof.Machine.execEncrid s
  | .encrrd => Sys2Proof.Machine.execEncrrd s
  | .encrwr => Sys2Proof.Machine.execEncrwr s
  | .encrwm => Sys2Proof.Machine.execEncrwm s
  -- decoder
  | .decreq => Sys2Proof.Machine.execDecreq s
  | .decrpl => Sys2Proof.Machine.execDecrpl s
  | .rxlen => Sys2Proof.Machine.execRxlen s

end Sys2Proof.Machine
end

