-- ==== Sys2Proof/Machine/HostPort.lean ====
section
/-! DEFINITION. The register port: what one host access does (20_memory.md R61 to R66, 70_reset_and_hazards.md R270). A write to
`CMD` runs a command inside the access (20_memory.md R70). -/

namespace Sys2Proof.Machine

/-- The command word `word` is run: the command it names, or the illegal-command action (10_state.md R22,
60_exceptions.md R246). -/
def runCommand (word : Byte) (s : State) : Host.Outcome State Fault Refusal :=
  match decode word with
  | .ok i => exec i s
  | .error _ => .next (illegalCommand s)

/-- `RegWrite(idx, v)`: a write to `CMD` runs the command of bits 7:0, a write to a reserved index changes nothing
(10_state.md R22; 20_memory.md R61, R63). -/
def regWrite (idx : RegIndex) (v : Word) (s : State) : Host.Outcome State Fault Refusal :=
  match regAt s.params idx with
  | some .cmd => runCommand (lo8 v) s
  | some r => .next (storeReg r v s)
  | none => .next s

/-- One host access is one atomic step (20_memory.md R61, R70). -/
def serve (a : HostAccess) (s : State) : Host.Outcome State Fault Refusal :=
  match a with
  | .read idx => .next (returnToHost (regRead idx s) s)
  | .write idx v => regWrite idx v s
  | .reset => .next (hostReset s)

/-- The next host access is taken from the queue and served. With none queued the block "holds its state unchanged"
(20_memory.md R70, 60_exceptions.md R252; notes/assumptions/9.md). -/
def serveNext (s : State) : Host.Outcome State Fault Refusal :=
  match s.pending with
  | [] => .next s
  | a :: rest => serve a { s with pending := rest }

/-- The host access that writes a command word to `CMD` (20_memory.md R62, 30_encoding.md R97). -/
def commandAccess (word : Byte) : HostAccess := .write 0x000 (zext16 word)

end Sys2Proof.Machine
end

