-- ==== Sys2Proof/Machine/Step.lean ====
section
/-! DEFINITION. The step: one host access served (20_memory.md R70). The block has no program counter and fetches nothing
(10_state.md R36, 20_memory.md R73). -/

namespace Sys2Proof.Machine

/-- One step of the block and its host. -/
def step (s : State) : Host.Outcome State Fault Refusal := serveNext s

/-- `s` with the command word of a table row as the host's next access, a write to `CMD`: what the block runs next
(10_state.md R22; notes/assumptions/4.md). -/
def State.withFetchWord (s : State) (nbits w : Nat) : State :=
  { s with pending := commandAccess (BitVec.ofNat 8 (w % 2 ^ nbits)) :: s.pending }

end Sys2Proof.Machine
end

