-- ==== Sys2Proof/WellFormed.lean ====
section
/-! DEFINITION. Well-formedness: of a command (nothing to check, it has no operand field) and of the build parameters (the
three constraints of 00_scope.md R7). Each constraint is a check of its own, so that each can be shown to refuse. -/

namespace Sys2Proof

/-- Every command is well-formed: "A command has no operand field" (30_encoding.md R80), so no constructor carries a value
that could be out of range (notes/assumptions/12.md). -/
def Instr.wf (_ : Instr) : Bool := true

/-- "The four `FC_*` values are pairwise distinct" (00_scope.md R7). -/
abbrev Params.codesDistinct (p : Params) : Prop :=
  p.fcQuery ≠ p.fcRead ∧ p.fcQuery ≠ p.fcWrite ∧ p.fcQuery ≠ p.fcWritem ∧
  p.fcRead ≠ p.fcWrite ∧ p.fcRead ≠ p.fcWritem ∧ p.fcWrite ≠ p.fcWritem

/-- `3 <= MIN_REPLY <= FB_SIZE` (00_scope.md R7). -/
abbrev Params.minReplyInRange (p : Params) : Prop :=
  3 ≤ p.minReply.toNat ∧ p.minReply.toNat ≤ p.fbSize.toNat

/-- `263 <= FB_SIZE <= 512` (00_scope.md R7). -/
abbrev Params.fbSizeInRange (p : Params) : Prop :=
  263 ≤ p.fbSize.toNat ∧ p.fbSize.toNat ≤ 512

/-- The parameters meet the constraints of 00_scope.md R7. Commands run without them too (notes/assumptions/11.md). -/
abbrev Params.wf (p : Params) : Prop :=
  p.codesDistinct ∧ p.minReplyInRange ∧ p.fbSizeInRange

end Sys2Proof
end

