-- ==== Sys2Proof/Safety.lean ====
section
/-! DEFINITION. What claims mean by a sound state, an answered step and registers at reset, and by the inputs and outputs of a
command (the columns of the table of 10_state.md R39). -/

namespace Sys2Proof.Machine

/-- How many of the bits 0 to 7 of a `STATUS` value are 1: `OK` and the seven error bits (10_state.md R32). -/
def verdictCount (w : Word) : Nat := ((List.range 8).filter fun k => w.getLsbD k).length

/-- A `STATUS` value a command may leave: one verdict, `CLAMPED` only with `OK`, reserved bits 15:11 zero (10_state.md R31,
R32). -/
abbrev Verdict (w : Word) : Prop :=
  verdictCount w = 1 ∧ (w.getLsbD 8 = true → w.getLsbD 0 = true) ∧ w.extractLsb' 11 5 = 0

/-- A sound state: legal build parameters, whole arrays, a `STATUS` that is 0 (no command yet) or a verdict, and a
`RES_KIND` that is one of the nine codes (00_scope.md R7; 10_state.md R20, R32, R33). -/
structure Sound (s : State) : Prop where
  params : s.params.wf
  memory : Memory.wf s
  status : s.status = 0 ∨ Verdict s.status
  resKind : s.resKind.toNat ≤ 8

/-- An outcome that is a next state: neither a fault nor a refusal. -/
def Answers (o : Host.Outcome State Fault Refusal) : Prop := ∃ t, o = .next t

/-- Every register at the value of the table of 10_state.md R40; the array cells are there, and nothing is said of what they
hold. -/
structure AtReset (t : State) : Prop where
  cmd : regRead 0x000 t = 0
  status : t.status = 0x0000
  devAddr : t.devAddr = t.params.devAddrReset
  arg0 : t.arg0 = 0x0000
  arg1 : t.arg1 = 0x0000
  fbLen : t.fbLen = 0
  valN : t.valN = 0
  strLen : t.strLen = 0
  crc : t.crc = 0x0000
  xlen : t.xlen = 0x0000
  resKind : t.resKind = 0
  resAddr : t.resAddr = 0x00
  resFc : t.resFc = 0x00
  resBc : t.resBc = 0x00
  resF0 : t.resF0 = 0x0000
  resF1 : t.resF1 = 0x0000
  resF2 : t.resF2 = 0x0000
  cells : Memory.wf t

/-- A command of the request or the reply encoder (30_encoding.md R80). -/
def IsEncoder (i : Instr) : Prop :=
  i ∈ [Instr.encq, .encrd, .encwr, .encwm, .encrid, .encrrd, .encrwr, .encrwm]

/-- A command that decodes a frame (42_decoder.md R190). -/
def IsDecoder (i : Instr) : Prop := i = .decreq ∨ i = .decrpl

/-- Two states agree on what the command reads: the column "reads" of 10_state.md R39, and the parameters. The frame counts
only when it is within the buffer, since no cell is read otherwise (20_memory.md R69). -/
def SameInputs (i : Instr) (s s' : State) : Prop :=
  s.params = s'.params ∧
  match i with
  | .crc16 | .crcchk | .decrpl => s.fbLen = s'.fbLen ∧ (bufferInBound s → frame s = frame s')
  | .encq => s.devAddr = s'.devAddr
  | .encrd | .encwr | .encrwr | .encrwm => s.devAddr = s'.devAddr ∧ s.arg0 = s'.arg0 ∧ s.arg1 = s'.arg1
  | .encwm =>
    s.devAddr = s'.devAddr ∧ s.arg0 = s'.arg0 ∧ s.arg1 = s'.arg1 ∧ s.valN = s'.valN ∧ values s = values s'
  | .encrid =>
    s.devAddr = s'.devAddr ∧ lo8 s.arg0 = lo8 s'.arg0 ∧ lo8 s.arg1 = lo8 s'.arg1 ∧ s.strLen = s'.strLen ∧
      string s = string s'
  | .encrrd => s.devAddr = s'.devAddr ∧ s.valN = s'.valN ∧ values s = values s'
  | .decreq => s.devAddr = s'.devAddr ∧ s.fbLen = s'.fbLen ∧ (bufferInBound s → frame s = frame s')
  | .rxlen =>
    s.fbLen = s'.fbLen ∧
      (bufferInBound s → s.params.minReply ≤ s.fbLen → byteAt s.fb 1 = byteAt s'.fb 1 ∧ byteAt s.fb 2 = byteAt s'.fb 2)

/-- Two states agree on what the command has written: the columns "writes" of 10_state.md R39. -/
def SameOutputs (i : Instr) (t t' : State) : Prop :=
  t.status = t'.status ∧
  match i with
  | .crc16 => t.status.getLsbD 0 = true → t.crc = t'.crc
  | .crcchk => bufferInBound t → t.crc = t'.crc
  | .encq | .encrd | .encwr | .encwm | .encrid | .encrrd | .encrwr | .encrwm =>
    t.fbLen = t'.fbLen ∧ frame t = frame t' ∧ (t.status.getLsbD 0 = true → t.crc = t'.crc)
  | .decreq | .decrpl =>
    t.resKind = t'.resKind ∧ t.resAddr = t'.resAddr ∧ t.resFc = t'.resFc ∧ t.resF0 = t'.resF0 ∧ t.resF1 = t'.resF1 ∧
      t.resF2 = t'.resF2 ∧ t.resBc = t'.resBc ∧ t.valN = t'.valN ∧ t.strLen = t'.strLen ∧ values t = values t' ∧
      string t = string t'
  | .rxlen => t.xlen = t'.xlen

end Sys2Proof.Machine
end

