-- ==== Sys2Proof/Certificates/Slice0/Obligations.lean ====
section
/-! DEFINITION. The statements about the model, for the provers. A statement writes registers, codes and status words with the
spec's own numbers, so that it can be read beside the rule it formalises. Where a statement quantifies over every state it
quantifies over every choice of the build parameters too (00_scope.md R7). -/

open Sys2Proof Sys2Proof.Machine

/-! ### Terms the statements share -/

/-- The two bytes of a 16-bit field on the wire, high byte first, by division (30_encoding.md R84). -/
def Sys2Proof.Claims.bigEndian (v : Word) : List Byte := [BitVec.ofNat 8 (v.toNat / 256), BitVec.ofNat 8 (v.toNat % 256)]

/-- The two bytes of a CRC on the wire, low byte first (30_encoding.md R84). -/
def Sys2Proof.Claims.littleEndian (c : Word) : List Byte := [BitVec.ofNat 8 (c.toNat % 256), BitVec.ofNat 8 (c.toNat / 256)]

/-- The frame for a body (40_crc.md R133): the CRC appended, low byte first. -/
def Sys2Proof.Claims.framed (body : List Byte) : List Byte := body ++ Claims.littleEndian (crc16 body)

/-- `s` after an encoder has left the frame for `body` in the buffer with the given `STATUS` (41_encoder.md R150): the cells
after the frame and every register not named keep what they hold. -/
def Sys2Proof.Claims.withFrame (body : List Byte) (status : Word) (s : State) : State :=
  { s with
    fb := Claims.framed body ++ s.fb.drop (body.length + 2)
    fbLen := BitVec.ofNat 16 (body.length + 2)
    crc := crc16 body
    status := status }

/-- `s` after a usage error (41_encoder.md R152). -/
def Sys2Proof.Claims.withUsageError (s : State) : State := { s with fbLen := 0, status := 0x0040 }

/-- `s` after a failed decode (42_decoder.md R191). -/
def Sys2Proof.Claims.withSentinel (status : Word) (s : State) : State :=
  { s with
    resKind := 0, resAddr := 0, resFc := 0, resF0 := 0, resF1 := 0, resF2 := 0, resBc := 0, valN := 0, strLen := 0
    status := status }

/-- A 16-bit field of a frame: the byte at offset `o` times 256 plus the next (30_encoding.md R84, R95). -/
def Sys2Proof.Claims.beField (b : List Byte) (o : Nat) : Word :=
  BitVec.ofNat 16 ((byteAt b o).toNat * 256 + (byteAt b (o + 1)).toNat)

/-- `k` 16-bit fields from offset `o` on. -/
def Sys2Proof.Claims.beFields (b : List Byte) (o k : Nat) : List Word :=
  (List.range k).map fun i => Claims.beField b (o + 2 * i)

/-- The checks of DECREQ that come before the layout all pass: buffer bound, length at least 4, address, CRC
(42_decoder.md R194). -/
def Sys2Proof.Claims.RequestArrived (s : State) : Prop :=
  s.params.wf ∧ s.fbLen.toNat ≤ s.params.fbSize.toNat ∧ 4 ≤ s.fbLen.toNat ∧ byteAt (frame s) 0 = s.devAddr ∧
    crc16 (frame s) = 0

/-- The buffer holds at least the `len` bytes of a reply with function code `fc`, and their CRC is right
(42_decoder.md R199). -/
def Sys2Proof.Claims.ReplyArrived (s : State) (fc : Byte) (len : Nat) : Prop :=
  s.params.wf ∧ s.fbLen.toNat ≤ s.params.fbSize.toNat ∧ 5 ≤ len ∧ len ≤ s.fbLen.toNat ∧ byteAt (frame s) 1 = fc ∧
    crc16 ((frame s).take len) = 0

/-- Command `i` answers, command `j` run right after it answers, and then `Q` holds. -/
def Sys2Proof.Claims.ThenRuns (i j : Instr) (s : State) (Q : State → Prop) : Prop :=
  ∃ t u, exec i s = .next t ∧ exec j t = .next u ∧ Q u

/-- The reserved indices (20_memory.md R62). -/
def Sys2Proof.Claims.Reserved (p : Params) (n : Nat) : Prop :=
  (0x011 ≤ n ∧ n ≤ 0x0FF) ∨ (0x100 + p.fbSize.toNat ≤ n ∧ n ≤ 0x2FF) ∨ (0x37F ≤ n ∧ n ≤ 0x3FF) ∨ (0x4FD ≤ n ∧ n ≤ 0xFFF)

/-! ### Command words -/

/-- 30_encoding.md R81: the opcode map holds every command, and a value not listed is not a command. -/
def Obligations.CommandWordsAreTheOpcodeMap : Prop :=
  ∀ (w : Byte) (i : Instr), decode w = .ok i ↔
    (w, i) ∈ [(0x01#8, Instr.crc16), (0x02, .crcchk), (0x41, .encq), (0x42, .encrd), (0x43, .encwr), (0x44, .encwm),
      (0x81, .encrid), (0x82, .encrrd), (0x83, .encrwr), (0x84, .encrwm), (0xC1, .decreq), (0xC2, .decrpl), (0xC3, .rxlen)]

/-- Decoding the command word of a command gives the command back, and no other word decodes to it (30_encoding.md R80). -/
def Obligations.DecodeInvertsEncode : Prop :=
  ∀ i : Instr, decode (encode i) = .ok i ∧ ∀ w : Byte, decode w = .ok i → w = encode i

/-- 30_encoding.md R82, 60_exceptions.md R246: the listed ranges are exactly the words that name no command, and writing one
to `CMD` gives `STATUS = 0x0080` and changes nothing else. -/
def Obligations.IllegalCommandOnlySetsCmdErr : Prop :=
  ∀ (w : Byte) (s : State),
    ((w.toNat = 0x00 ∨ (0x03 ≤ w.toNat ∧ w.toNat ≤ 0x40) ∨ (0x45 ≤ w.toNat ∧ w.toNat ≤ 0x80) ∨
        (0x85 ≤ w.toNat ∧ w.toNat ≤ 0xC0) ∨ 0xC4 ≤ w.toNat) ↔ ∀ i, encode i ≠ w) ∧
    ((∀ i, encode i ≠ w) → ∀ v : Word, v.extractLsb' 0 8 = w → regWrite 0x000 v s = .next { s with status := 0x0080 })

/-! ### Steps and host accesses -/

/-- A host write to `CMD` runs the command that bits 7:0 name, or the illegal-command action; `CMD` reads 0 (10_state.md R22).
That the access stands first in `pending` and the step takes it off there is the model's choice (notes/assumptions/4.md). -/
def Obligations.StepRunsTheDecodedCommand : Prop :=
  (∀ (s : State) (v : Word) (rest : List HostAccess), s.pending = .write 0x000 v :: rest →
    (∀ i, decode (v.extractLsb' 0 8) = .ok i → step s = exec i { s with pending := rest }) ∧
    ((∀ i, decode (v.extractLsb' 0 8) ≠ .ok i) → step s = .next { s with pending := rest, status := 0x0080 })) ∧
  ∀ s : State, regRead 0x000 s = 0

/-- The accesses are served one a step in the order the host issues them (20_memory.md R70), and with none queued the block holds
its state (60_exceptions.md R252). That the next access stands first in `pending` and the step leaves the rest there is the
model's choice (DESIGN CHOICE, notes/assumptions/4.md), and that a step with none queued answers the same state is DEDUCED from
R252 (notes/assumptions/9.md). -/
def Obligations.AccessesAreServedInOrder : Prop :=
  (∀ s : State, s.pending = [] → step s = .next s) ∧
  ∀ (s : State) (a : HostAccess) (rest : List HostAccess), s.pending = a :: rest →
    step s = serve a { s with pending := rest } ∧ ∃ t, step s = .next t ∧ t.pending = rest

/-- 93_implementation_defined.md section 2 ("No behaviour of the block is undefined"), 60_exceptions.md R253: every step and
every command answers a next state, whatever the state and the parameters. -/
def Obligations.EveryStepAnswers : Prop :=
  (∀ s : State, Answers (step s)) ∧ ∀ (i : Instr) (s : State), Answers (exec i s)

/-- The reset values (10_state.md R40), after power-up and after the host's reset action (70_reset_and_hazards.md R270). That
`State.reset` is built with the spec defaults and that the parameters stand over a reset is the model's choice
(notes/assumptions/1.md). "Nothing survives a reset" (R270) is about the block: that the accesses the host has yet to issue stand
in `pending` and stay there is the model's choice (DESIGN CHOICE, notes/assumptions/4.md). -/
def Obligations.ResetGivesTheResetValues : Prop :=
  (AtReset State.reset ∧ State.reset.params = Config.specDefaults) ∧
  ∀ (s : State) (rest : List HostAccess), s.pending = .reset :: rest →
    ∃ t, step s = .next t ∧ AtReset t ∧ t.params = s.params ∧ t.pending = rest

/-- 20_memory.md R63: a reserved index reads 0, and a write to it changes nothing and runs no command. -/
def Obligations.ReservedIndicesReadZeroAndIgnoreWrites : Prop :=
  ∀ (s : State) (idx : RegIndex), Claims.Reserved s.params idx.toNat →
    regRead idx s = 0 ∧ ∀ v : Word, regWrite idx v s = .next s

/-- 20_memory.md R64: a write to a read-only register changes nothing, and `CMD` reads 0. -/
def Obligations.ReadOnlyRegistersIgnoreWrites : Prop :=
  ∀ s : State, (∀ (idx : RegIndex) (v : Word), idx = 0x001 ∨ (0x008 ≤ idx.toNat ∧ idx.toNat ≤ 0x010) →
    regWrite idx v s = .next s) ∧ regRead 0x000 s = 0

/-- The read side of the index map (20_memory.md R62): which register or cell each index names, zero-extended. -/
def Obligations.IndexMapReadsEveryRegister : Prop :=
  ∀ s : State, s.params.fbSizeInRange →
    (regRead 0x000 s = 0 ∧ regRead 0x001 s = s.status ∧ regRead 0x002 s = s.devAddr.setWidth 16 ∧
      regRead 0x003 s = s.arg0 ∧ regRead 0x004 s = s.arg1 ∧ regRead 0x005 s = s.fbLen ∧
      regRead 0x006 s = s.valN.setWidth 16 ∧ regRead 0x007 s = s.strLen.setWidth 16 ∧ regRead 0x008 s = s.crc ∧
      regRead 0x009 s = s.xlen ∧ regRead 0x00A s = s.resKind.setWidth 16 ∧ regRead 0x00B s = s.resAddr.setWidth 16 ∧
      regRead 0x00C s = s.resFc.setWidth 16 ∧ regRead 0x00D s = s.resF0 ∧ regRead 0x00E s = s.resF1 ∧
      regRead 0x00F s = s.resF2 ∧ regRead 0x010 s = s.resBc.setWidth 16) ∧
    (∀ i < s.params.fbSize.toNat, regRead (BitVec.ofNat 12 (0x100 + i)) s = (byteAt s.fb i).setWidth 16) ∧
    (∀ i < 127, regRead (BitVec.ofNat 12 (0x300 + i)) s = s.val.getD i 0) ∧
    (∀ i < 253, regRead (BitVec.ofNat 12 (0x400 + i)) s = (byteAt s.str i).setWidth 16)

/-- 20_memory.md R65: a write to a writable register or cell stores the low bits of its width, whatever the value. -/
def Obligations.WritesStoreTheLowBitsOfTheWidth : Prop :=
  ∀ (s : State) (v : Word), s.params.fbSizeInRange →
    regWrite 0x002 v s = .next { s with devAddr := v.extractLsb' 0 8 } ∧
    regWrite 0x003 v s = .next { s with arg0 := v } ∧
    regWrite 0x004 v s = .next { s with arg1 := v } ∧
    regWrite 0x005 v s = .next { s with fbLen := v } ∧
    regWrite 0x006 v s = .next { s with valN := v.extractLsb' 0 8 } ∧
    regWrite 0x007 v s = .next { s with strLen := v.extractLsb' 0 8 } ∧
    (∀ i < s.params.fbSize.toNat,
      regWrite (BitVec.ofNat 12 (0x100 + i)) v s = .next { s with fb := s.fb.set i (v.extractLsb' 0 8) }) ∧
    (∀ i < 127, regWrite (BitVec.ofNat 12 (0x300 + i)) v s = .next { s with val := s.val.set i v }) ∧
    (∀ i < 253,
      regWrite (BitVec.ofNat 12 (0x400 + i)) v s = .next { s with str := s.str.set i (v.extractLsb' 0 8) })

/-- A read leaves every register as it was (the host only gets its value); a write other than to `CMD` changes no index but its
own, and a second one like it changes nothing more (20_memory.md R66). That the value goes to `readLog`, and that a write leaves
`resets`, `pending` and `readLog`, is about the model's own fields (DESIGN CHOICE, notes/assumptions/3.md to 5.md), and that it
leaves `params` rests on notes/assumptions/1.md. -/
def Obligations.AccessesHaveNoOtherEffect : Prop :=
  (∀ (s : State) (idx : RegIndex), serve (.read idx) s = .next { s with readLog := regRead idx s :: s.readLog }) ∧
  ∀ (s t : State) (idx : RegIndex) (v : Word), idx ≠ 0x000 → regWrite idx v s = .next t →
    (∀ j : RegIndex, j ≠ idx → regRead j t = regRead j s) ∧
    (t.params = s.params ∧ t.resets = s.resets ∧ t.pending = s.pending ∧ t.readLog = s.readLog) ∧
    regWrite idx v t = .next t

/-- What a host writes to a writable register or cell it reads back, truncated to the width (20_memory.md R65, R70). -/
def Obligations.WrittenValuesReadBack : Prop :=
  ∀ (s : State) (idx : RegIndex) (v : Word), s.params.wf → Memory.wf s → idx ≠ 0x000 →
    ∃ t, regWrite idx v s = .next t ∧
      ((idx.toNat = 0x002 ∨ idx.toNat = 0x006 ∨ idx.toNat = 0x007 ∨
          (0x100 ≤ idx.toNat ∧ idx.toNat < 0x100 + s.params.fbSize.toNat) ∨
          (0x400 ≤ idx.toNat ∧ idx.toNat < 0x400 + 253) → regRead idx t = (v.extractLsb' 0 8).setWidth 16) ∧
        (idx.toNat = 0x003 ∨ idx.toNat = 0x004 ∨ idx.toNat = 0x005 ∨ (0x300 ≤ idx.toNat ∧ idx.toNat < 0x300 + 127) →
          regRead idx t = v))

/-- No step changes the build parameters: "They are not registers" (70_reset_and_hazards.md R272). That they stand in `State` is
the model's choice (DESIGN CHOICE, notes/assumptions/1.md). -/
def Obligations.ParametersNeverChange : Prop :=
  ∀ s t : State, step s = .next t → t.params = s.params

/-! ### The CRC unit -/

/-- 40_crc.md R134: the validation law, over every byte sequence. -/
def Obligations.AppendedCrcValidates : Prop :=
  (∀ f : List Byte, validate f = true ↔ crc16 f = 0) ∧
  ∀ s : List Byte, crc16 (s ++ Claims.littleEndian (crc16 s)) = 0

/-- 40_crc.md R137 (c): `crc16` is affine over GF(2) on sequences of equal length. -/
def Obligations.CrcIsAffine : Prop :=
  ∀ s t : List Byte, s.length = t.length →
    crc16 s ^^^ crc16 t = crc16 (List.zipWith (· ^^^ ·) s t) ^^^ crc16 (List.replicate s.length 0)

/-- The first half of 40_crc.md R137 (d): a change to one byte of a frame that validates makes it fail. -/
def Obligations.SingleByteChangeIsDetected : Prop :=
  ∀ (pre post : List Byte) (x y : Byte), x ≠ y →
    validate (pre ++ x :: post) = true → validate (pre ++ y :: post) = false

/-- The second half of 40_crc.md R137 (d): so does a burst of changed bits no more than 16 bits long, bits counted from the
least significant of each byte in wire order. -/
def Obligations.BurstUpToSixteenBitsIsDetected : Prop :=
  ∀ (f g : List Byte) (p : Nat), f.length = g.length → f ≠ g →
    (∀ k, k < p ∨ p + 16 ≤ k → (f.getD (k / 8) 0).getLsbD (k % 8) = (g.getD (k / 8) 0).getLsbD (k % 8)) →
    validate f = true → validate g = false

/-- 40_crc.md R135: `CRC16`, with the corner cases of the rule (a buffer that holds a frame of R133 has CRC 0) and the check
value of R138. -/
def Obligations.Crc16WritesTheCrcOfTheBuffer : Prop :=
  encode .crc16 = 0x01 ∧
  (∀ s : State, exec .crc16 s = .next
    (if s.params.fbSize.toNat < s.fbLen.toNat then { s with status := 0x0004 }
     else { s with crc := crc16 (s.fb.take s.fbLen.toNat), status := 0x0001 })) ∧
  crc16 [] = 0xFFFF ∧ crc16 [0x00] = 0x40BF ∧ crc16 [0x01, 0x03, 0x00, 0x00, 0x00, 0x01] = 0x0A84 ∧
  (∀ body : List Byte, crc16 (Claims.framed body) = 0) ∧
  crc16 [0x31, 0x32, 0x33, 0x34, 0x35, 0x36, 0x37, 0x38, 0x39] = 0x4B37

/-- 40_crc.md R136: `CRCCHK`, with the buffers too short to hold a CRC. -/
def Obligations.CrcchkValidatesTheBuffer : Prop :=
  encode .crcchk = 0x02 ∧
  (∀ s : State, exec .crcchk s = .next
    (if s.params.fbSize.toNat < s.fbLen.toNat then { s with status := 0x0004 }
     else { s with
      crc := crc16 (s.fb.take s.fbLen.toNat)
      status := if s.fbLen.toNat < 2 then 0x0004 else if crc16 (s.fb.take s.fbLen.toNat) = 0 then 0x0001 else 0x0002 })) ∧
  crc16 [] = 0xFFFF ∧ (∀ x : Byte, crc16 [x] ≠ 0) ∧ ∀ x y : Byte, crc16 [x, y] = 0 ↔ x = 0xFF ∧ y = 0xFF

/-! ### The encoders -/

/-- 41_encoder.md R153: `ENCQ`. -/
def Obligations.EncqEncodesAQuery : Prop :=
  encode .encq = 0x41 ∧
  ∀ s : State, exec .encq s = .next (Claims.withFrame [s.devAddr, s.params.fcQuery] 0x0001 s)

/-- 41_encoder.md R154: `ENCRD`, with the clamp of R151 written out. -/
def Obligations.EncrdEncodesAReadWithTheCountClamped : Prop :=
  encode .encrd = 0x42 ∧
  ∀ s : State,
    (1 ≤ s.arg1.toNat ∧ s.arg1.toNat ≤ 125 → exec .encrd s = .next (Claims.withFrame
      ([s.devAddr, s.params.fcRead] ++ Claims.bigEndian s.arg0 ++ Claims.bigEndian s.arg1) 0x0001 s)) ∧
    (s.arg1.toNat = 0 ∨ 125 < s.arg1.toNat → exec .encrd s = .next (Claims.withFrame
      ([s.devAddr, s.params.fcRead] ++ Claims.bigEndian s.arg0 ++ [0, 1]) 0x0101 s))

/-- 41_encoder.md R155: `ENCWR`. -/
def Obligations.EncwrEncodesAWrite : Prop :=
  encode .encwr = 0x43 ∧
  ∀ s : State, exec .encwr s = .next (Claims.withFrame
    ([s.devAddr, s.params.fcWrite] ++ Claims.bigEndian s.arg0 ++ Claims.bigEndian s.arg1) 0x0001 s)

/-- 41_encoder.md R156: `ENCWM`. -/
def Obligations.EncwmEncodesAWriteMultiple : Prop :=
  encode .encwm = 0x44 ∧
  ∀ s : State,
    (s.valN.toNat ≤ 127 ∧ s.arg1.toNat = s.valN.toNat → exec .encwm s = .next (Claims.withFrame
      ([s.devAddr, s.params.fcWritem] ++ Claims.bigEndian s.arg0 ++ [0, s.valN, BitVec.ofNat 8 (2 * s.valN.toNat)]
        ++ (s.val.take s.valN.toNat).flatMap Claims.bigEndian) 0x0001 s)) ∧
    (127 < s.valN.toNat ∨ s.arg1.toNat ≠ s.valN.toNat → exec .encwm s = .next (Claims.withUsageError s))

/-- 41_encoder.md R157: `ENCRID`. -/
def Obligations.EncridEncodesAnIdentification : Prop :=
  encode .encrid = 0x81 ∧
  ∀ s : State,
    (s.strLen.toNat ≤ 253 → exec .encrid s = .next (Claims.withFrame
      ([s.devAddr, s.params.fcQuery, s.strLen + 2, s.arg0.extractLsb' 0 8, s.arg1.extractLsb' 0 8]
        ++ s.str.take s.strLen.toNat) 0x0001 s)) ∧
    (253 < s.strLen.toNat → exec .encrid s = .next (Claims.withUsageError s))

/-- 41_encoder.md R158: `ENCRRD`. -/
def Obligations.EncrrdEncodesAReadReply : Prop :=
  encode .encrrd = 0x82 ∧
  ∀ s : State,
    (1 ≤ s.valN.toNat ∧ s.valN.toNat ≤ 125 → exec .encrrd s = .next (Claims.withFrame
      ([s.devAddr, s.params.fcRead, BitVec.ofNat 8 (2 * s.valN.toNat)]
        ++ (s.val.take s.valN.toNat).flatMap Claims.bigEndian) 0x0001 s)) ∧
    (s.valN.toNat = 0 ∨ 125 < s.valN.toNat → exec .encrrd s = .next (Claims.withUsageError s))

/-- 41_encoder.md R159: `ENCRWR`, and that it does what `ENCWR` does. -/
def Obligations.EncrwrEchoesTheWrite : Prop :=
  encode .encrwr = 0x83 ∧
  ∀ s : State, exec .encrwr s = .next (Claims.withFrame
    ([s.devAddr, s.params.fcWrite] ++ Claims.bigEndian s.arg0 ++ Claims.bigEndian s.arg1) 0x0001 s) ∧
    exec .encrwr s = exec .encwr s

/-- 41_encoder.md R160: `ENCRWM`. -/
def Obligations.EncrwmEchoesAddressAndCount : Prop :=
  encode .encrwm = 0x84 ∧
  ∀ s : State, exec .encrwm s = .next (Claims.withFrame
    ([s.devAddr, s.params.fcWritem] ++ Claims.bigEndian s.arg0 ++ Claims.bigEndian s.arg1) 0x0001 s)

/-- 41_encoder.md R151: the clamp, whose result is never 0 and never above 125. -/
def Obligations.ClampServesOneToOneHundredTwentyFive : Prop :=
  ∀ c : Word, (1 ≤ c.toNat ∧ c.toNat ≤ 125 → clamp c = c) ∧ (c.toNat = 0 ∨ 125 < c.toNat → clamp c = 1) ∧
    1 ≤ (clamp c).toNat ∧ (clamp c).toNat ≤ 125

/-- 41_encoder.md R150, and the frame of the eight encoders: on `OK` the buffer holds a body that starts with `DEV_ADDR`, its
CRC low byte first, `FB_LEN` and `CRC` say so, no cell from `FB_LEN` on is written, and nothing else changes. -/
def Obligations.EncodersStoreOnlyTheirFrame : Prop :=
  ∀ (i : Instr) (s t : State), IsEncoder i → exec i s = .next t → t.status.getLsbD 0 = true →
    (∃ body : List Byte, byteAt body 0 = s.devAddr ∧ 2 ≤ body.length ∧ t.fbLen.toNat = body.length + 2 ∧
      frame t = Claims.framed body ∧ t.crc = crc16 body) ∧
    (∀ k : Nat, t.fbLen.toNat ≤ k → byteAt t.fb k = byteAt s.fb k) ∧
    t = { s with fb := t.fb, fbLen := t.fbLen, crc := t.crc, status := t.status } ∧
    (t.status = 0x0001 ∨ t.status = 0x0101)

/-- 41_encoder.md R152: a usage error leaves `FB_LEN = 0` and `USAGE_ERR`, and every other register and cell as it was. -/
def Obligations.UsageErrorWritesNoFrame : Prop :=
  ∀ (i : Instr) (s t : State), exec i s = .next t → t.status.getLsbD 6 = true →
    t = { s with fbLen := 0, status := 0x0040 } ∧ frame t = [] ∧ ∀ j : Instr, Answers (exec j t)

/-- 41_encoder.md R163: the lengths of the frames the encoders write, the longest 263 bytes. -/
def Obligations.EncodersWriteFramesOfTheTableLengths : Prop :=
  ∀ (i : Instr) (s t : State), IsEncoder i → exec i s = .next t → t.status.getLsbD 0 = true →
    (i = .encq → t.fbLen = 4) ∧
    (i = .encrd ∨ i = .encwr ∨ i = .encrwr ∨ i = .encrwm → t.fbLen = 8) ∧
    (i = .encwm → Memory.wf s → t.fbLen.toNat = 9 + 2 * s.valN.toNat ∧ 9 ≤ t.fbLen.toNat ∧ t.fbLen.toNat ≤ 263) ∧
    (i = .encrid → Memory.wf s → t.fbLen.toNat = 7 + s.strLen.toNat ∧ 7 ≤ t.fbLen.toNat ∧ t.fbLen.toNat ≤ 260) ∧
    (i = .encrrd → Memory.wf s → t.fbLen.toNat = 5 + 2 * s.valN.toNat ∧ 7 ≤ t.fbLen.toNat ∧ t.fbLen.toNat ≤ 255) ∧
    t.fbLen.toNat ≤ 263

/-- 41_encoder.md R161: what an encoder leaves depends on its own operands (`SameInputs`: its row of 10_state.md R39) and the
parameters alone, and it writes none of `VAL`, `VAL_N`, `STR`, `STR_LEN`. -/
def Obligations.EncodersReadOnlyTheirOperands : Prop :=
  ∀ (i : Instr) (s s' t t' : State), IsEncoder i →
    SameInputs i s s' → exec i s = .next t → exec i s' = .next t' →
    (t.status = t'.status ∧ t.fbLen = t'.fbLen ∧ frame t = frame t' ∧ (t.status.getLsbD 0 = true → t.crc = t'.crc)) ∧
    t.valN = s.valN ∧ t.val = s.val ∧ t.strLen = s.strLen ∧ t.str = s.str

/-- The first sentence of 41_encoder.md R162: a frame an encoder has just written with `OK` passes CRCCHK. -/
def Obligations.EncodedFramesValidate : Prop :=
  ∀ (i : Instr) (s t : State), IsEncoder i → s.params.wf → exec i s = .next t → t.status.getLsbD 0 = true →
    ∃ u, exec .crcchk t = .next u ∧ u.status = 0x0001 ∧ u.crc = 0

/-- 41_encoder.md R162 for the requests: DECREQ right after a request encoder recovers the operands it read. -/
def Obligations.RequestFramesRoundTrip : Prop :=
  ∀ s : State, s.params.wf → Memory.wf s →
    Claims.ThenRuns .encq .decreq s (fun u => u.status = 0x0001 ∧ u.resKind = 1 ∧ u.resAddr = s.devAddr ∧
      u.resFc = s.params.fcQuery) ∧
    Claims.ThenRuns .encrd .decreq s (fun u => u.status = 0x0001 ∧ u.resKind = 2 ∧ u.resAddr = s.devAddr ∧
      u.resFc = s.params.fcRead ∧ u.resF0 = s.arg0 ∧ u.resF1 = clamp s.arg1 ∧ u.resF2 = clamp s.arg1) ∧
    Claims.ThenRuns .encwr .decreq s (fun u => u.status = 0x0001 ∧ u.resKind = 3 ∧ u.resAddr = s.devAddr ∧
      u.resFc = s.params.fcWrite ∧ u.resF0 = s.arg0 ∧ u.resF1 = s.arg1) ∧
    (s.valN.toNat ≤ 127 → s.arg1.toNat = s.valN.toNat →
      Claims.ThenRuns .encwm .decreq s (fun u => u.status = 0x0001 ∧ u.resKind = 4 ∧ u.resAddr = s.devAddr ∧
        u.resFc = s.params.fcWritem ∧ u.resF0 = s.arg0 ∧ u.resF1 = s.arg1 ∧ u.resBc.toNat = 2 * s.valN.toNat ∧
        u.valN = s.valN ∧ values u = values s))

/-- 41_encoder.md R162 for the replies: DECRPL right after a reply encoder recovers the operands it read. -/
def Obligations.ReplyFramesRoundTrip : Prop :=
  ∀ s : State, s.params.wf → Memory.wf s →
    (s.strLen.toNat ≤ 253 →
      Claims.ThenRuns .encrid .decrpl s (fun u => u.status = 0x0001 ∧ u.resKind = 5 ∧ u.resAddr = s.devAddr ∧
        u.resFc = s.params.fcQuery ∧ u.resF0.toNat = s.arg0.toNat % 256 ∧ u.resF1.toNat = s.arg1.toNat % 256 ∧
        u.resBc.toNat = s.strLen.toNat + 2 ∧ u.strLen = s.strLen ∧ string u = string s)) ∧
    (1 ≤ s.valN.toNat → s.valN.toNat ≤ 125 →
      Claims.ThenRuns .encrrd .decrpl s (fun u => u.status = 0x0001 ∧ u.resKind = 6 ∧ u.resAddr = s.devAddr ∧
        u.resFc = s.params.fcRead ∧ u.resBc.toNat = 2 * s.valN.toNat ∧ u.valN = s.valN ∧ values u = values s)) ∧
    Claims.ThenRuns .encrwr .decrpl s (fun u => u.status = 0x0001 ∧ u.resKind = 7 ∧ u.resAddr = s.devAddr ∧
      u.resFc = s.params.fcWrite ∧ u.resF0 = s.arg0 ∧ u.resF1 = s.arg1) ∧
    Claims.ThenRuns .encrwm .decrpl s (fun u => u.status = 0x0001 ∧ u.resKind = 8 ∧ u.resAddr = s.devAddr ∧
      u.resFc = s.params.fcWritem ∧ u.resF0 = s.arg0 ∧ u.resF1 = s.arg1)

/-! ### DECREQ -/

/-- The status DECREQ leaves: its checks in the order of 42_decoder.md R194 and 60_exceptions.md R243, then `CLAMPED` for a
read count outside `[1, 125]` (R196) and the byte-count check of a write-multiple request (R198). -/
def Obligations.DecreqReportsTheFirstFailingCheck : Prop :=
  ∀ s : State, ∃ t, exec .decreq s = .next t ∧ t.status =
    if s.params.fbSize.toNat < s.fbLen.toNat then 0x0004
    else if s.fbLen.toNat < 4 then 0x0004
    else if byteAt (frame s) 0 ≠ s.devAddr then 0x0020
    else if crc16 (frame s) ≠ 0 then 0x0002
    else if byteAt (frame s) 1 = s.params.fcQuery then (if s.fbLen.toNat = 4 then 0x0001 else 0x0004)
    else if byteAt (frame s) 1 = s.params.fcRead then
      (if s.fbLen.toNat ≠ 8 then 0x0004
       else if 1 ≤ (Claims.beField (frame s) 4).toNat ∧ (Claims.beField (frame s) 4).toNat ≤ 125 then 0x0001 else 0x0101)
    else if byteAt (frame s) 1 = s.params.fcWrite then (if s.fbLen.toNat = 8 then 0x0001 else 0x0004)
    else if byteAt (frame s) 1 = s.params.fcWritem then
      (if s.fbLen.toNat < 9 then 0x0004
       else if s.fbLen.toNat ≠ 9 + (byteAt (frame s) 6).toNat then 0x0004
       else if (byteAt (frame s) 6).toNat ≠ 2 * (Claims.beField (frame s) 4).toNat then 0x0010
       else 0x0001)
    else 0x0008

/-- 42_decoder.md R195: DECREQ's result for a `Query`. -/
def Obligations.DecreqDecodesAQuery : Prop :=
  ∀ s : State, Claims.RequestArrived s → byteAt (frame s) 1 = s.params.fcQuery → s.fbLen.toNat = 4 →
    exec .decreq s = .next { s with
      resKind := 1, resAddr := byteAt (frame s) 0, resFc := byteAt (frame s) 1
      resF0 := 0, resF1 := 0, resF2 := 0, resBc := 0, valN := 0, strLen := 0, status := 0x0001 }

/-- 42_decoder.md R196: DECREQ's result for a `ReadRegisters`, the count served clamped, kept raw and flagged. -/
def Obligations.DecreqDecodesAReadWithTheCountClamped : Prop :=
  ∀ s : State, Claims.RequestArrived s → byteAt (frame s) 1 = s.params.fcRead → s.fbLen.toNat = 8 →
    ∃ eff status : Word,
      exec .decreq s = .next { s with
        resKind := 2, resAddr := byteAt (frame s) 0, resFc := byteAt (frame s) 1
        resF0 := Claims.beField (frame s) 2, resF1 := eff, resF2 := Claims.beField (frame s) 4, resBc := 0
        valN := 0, strLen := 0, status := status } ∧
      (1 ≤ (Claims.beField (frame s) 4).toNat ∧ (Claims.beField (frame s) 4).toNat ≤ 125 →
        eff = Claims.beField (frame s) 4 ∧ status = 0x0001) ∧
      ((Claims.beField (frame s) 4).toNat = 0 ∨ 125 < (Claims.beField (frame s) 4).toNat → eff = 1 ∧ status = 0x0101)

/-- 42_decoder.md R197: DECREQ's result for a `WriteRegister`. -/
def Obligations.DecreqDecodesAWrite : Prop :=
  ∀ s : State, Claims.RequestArrived s → byteAt (frame s) 1 = s.params.fcWrite → s.fbLen.toNat = 8 →
    exec .decreq s = .next { s with
      resKind := 3, resAddr := byteAt (frame s) 0, resFc := byteAt (frame s) 1
      resF0 := Claims.beField (frame s) 2, resF1 := Claims.beField (frame s) 4, resF2 := 0, resBc := 0
      valN := 0, strLen := 0, status := 0x0001 }

/-- 42_decoder.md R198: DECREQ's result for a `WriteMultiRegisters`, and `FMT_ERR` when the byte count is not twice the
count. -/
def Obligations.DecreqDecodesAWriteMultiple : Prop :=
  ∀ s : State, Claims.RequestArrived s → byteAt (frame s) 1 = s.params.fcWritem →
    s.fbLen.toNat = 9 + (byteAt (frame s) 6).toNat →
    ((byteAt (frame s) 6).toNat = 2 * (Claims.beField (frame s) 4).toNat →
      exec .decreq s = .next { s with
        resKind := 4, resAddr := byteAt (frame s) 0, resFc := byteAt (frame s) 1
        resF0 := Claims.beField (frame s) 2, resF1 := Claims.beField (frame s) 4, resF2 := 0, resBc := byteAt (frame s) 6
        val := Claims.beFields (frame s) 7 (Claims.beField (frame s) 4).toNat
          ++ s.val.drop (Claims.beField (frame s) 4).toNat
        valN := BitVec.ofNat 8 (Claims.beField (frame s) 4).toNat, strLen := 0, status := 0x0001 }) ∧
    ((byteAt (frame s) 6).toNat ≠ 2 * (Claims.beField (frame s) 4).toNat →
      exec .decreq s = .next (Claims.withSentinel 0x0010 s))

/-! ### DECRPL -/

/-- The status DECRPL leaves: its checks in the order of 42_decoder.md R199 and 60_exceptions.md R243, with the byte-count
checks of R200 and R201 last. -/
def Obligations.DecrplReportsTheFirstFailingCheck : Prop :=
  ∀ s : State, s.params.wf → ∃ t, exec .decrpl s = .next t ∧ t.status =
    if s.params.fbSize.toNat < s.fbLen.toNat then 0x0004
    else if s.fbLen.toNat < 2 then 0x0004
    else if byteAt (frame s) 1 = s.params.fcQuery ∨ byteAt (frame s) 1 = s.params.fcRead then
      (if s.fbLen.toNat < 3 then 0x0004
       else if s.fbLen.toNat < 5 + (byteAt (frame s) 2).toNat then 0x0004
       else if crc16 ((frame s).take (5 + (byteAt (frame s) 2).toNat)) ≠ 0 then 0x0002
       else if byteAt (frame s) 1 = s.params.fcQuery ∧ (byteAt (frame s) 2).toNat < 2 then 0x0010
       else if byteAt (frame s) 1 = s.params.fcRead ∧ (byteAt (frame s) 2).toNat % 2 = 1 then 0x0010
       else 0x0001)
    else if byteAt (frame s) 1 = s.params.fcWrite ∨ byteAt (frame s) 1 = s.params.fcWritem then
      (if s.fbLen.toNat < 8 then 0x0004 else if crc16 ((frame s).take 8) ≠ 0 then 0x0002 else 0x0001)
    else 0x0008

/-- 42_decoder.md R200: DECRPL's result for a `SlaveIdReport`, and `FMT_ERR` for a byte count below 2. -/
def Obligations.DecrplDecodesAnIdentification : Prop :=
  ∀ s : State, Memory.wf s →
    Claims.ReplyArrived s s.params.fcQuery (5 + (byteAt (frame s) 2).toNat) →
    (2 ≤ (byteAt (frame s) 2).toNat →
      exec .decrpl s = .next { s with
        resKind := 5, resAddr := byteAt (frame s) 0, resFc := byteAt (frame s) 1
        resF0 := (byteAt (frame s) 3).setWidth 16, resF1 := (byteAt (frame s) 4).setWidth 16, resF2 := 0
        resBc := byteAt (frame s) 2, valN := 0
        str := ((frame s).drop 5).take ((byteAt (frame s) 2).toNat - 2) ++ s.str.drop ((byteAt (frame s) 2).toNat - 2)
        strLen := byteAt (frame s) 2 - 2, status := 0x0001 }) ∧
    ((byteAt (frame s) 2).toNat < 2 → exec .decrpl s = .next (Claims.withSentinel 0x0010 s))

/-- 42_decoder.md R201: DECRPL's result for a `ReadRegistersReply`, a byte count of 0 accepted, and `FMT_ERR` for an odd
one. -/
def Obligations.DecrplDecodesAReadReply : Prop :=
  ∀ s : State, Claims.ReplyArrived s s.params.fcRead (5 + (byteAt (frame s) 2).toNat) →
    ((byteAt (frame s) 2).toNat % 2 = 0 →
      exec .decrpl s = .next { s with
        resKind := 6, resAddr := byteAt (frame s) 0, resFc := byteAt (frame s) 1
        resF0 := 0, resF1 := 0, resF2 := 0, resBc := byteAt (frame s) 2
        val := Claims.beFields (frame s) 3 ((byteAt (frame s) 2).toNat / 2)
          ++ s.val.drop ((byteAt (frame s) 2).toNat / 2)
        valN := BitVec.ofNat 8 ((byteAt (frame s) 2).toNat / 2), strLen := 0, status := 0x0001 }) ∧
    ((byteAt (frame s) 2).toNat % 2 = 1 → exec .decrpl s = .next (Claims.withSentinel 0x0010 s))

/-- 42_decoder.md R202 and R203: DECRPL's results for a `WriteRegisterReply` and a `WriteMultiRegistersReply`. -/
def Obligations.DecrplDecodesTheWriteReplies : Prop :=
  ∀ s : State,
    (Claims.ReplyArrived s s.params.fcWrite 8 →
      exec .decrpl s = .next { s with
        resKind := 7, resAddr := byteAt (frame s) 0, resFc := byteAt (frame s) 1
        resF0 := Claims.beField (frame s) 2, resF1 := Claims.beField (frame s) 4, resF2 := 0, resBc := 0
        valN := 0, strLen := 0, status := 0x0001 }) ∧
    (Claims.ReplyArrived s s.params.fcWritem 8 →
      exec .decrpl s = .next { s with
        resKind := 8, resAddr := byteAt (frame s) 0, resFc := byteAt (frame s) 1
        resF0 := Claims.beField (frame s) 2, resF1 := Claims.beField (frame s) 4, resF2 := 0, resBc := 0
        valN := 0, strLen := 0, status := 0x0001 })

/-- 42_decoder.md R204: bytes after the frame change nothing of what DECRPL finds and are left in the buffer. DECREQ, by
contrast, accepts no request followed by further bytes. -/
def Obligations.TrailingBytesAreIgnoredByDecrplOnly : Prop :=
  ∀ (s t : State) (m : Word), s.params.wf → m.toNat ≤ s.fbLen.toNat → s.fbLen.toNat ≤ s.params.fbSize.toNat →
    (exec .decrpl { s with fbLen := m } = .next t → t.status.getLsbD 0 = true →
      exec .decrpl s = .next { t with fbLen := s.fbLen }) ∧
    (exec .decreq { s with fbLen := m } = .next t → t.status.getLsbD 0 = true → m.toNat < s.fbLen.toNat →
      ∃ u, exec .decreq s = .next u ∧ u.status.getLsbD 0 = false)

/-! ### Both decoders -/

/-- 42_decoder.md R191: a failed decode is the sentinel with one of the five error bits, and nothing else changes. -/
def Obligations.FailedDecodeIsTheSentinel : Prop :=
  ∀ (i : Instr) (s t : State), IsDecoder i → exec i s = .next t → t.status.getLsbD 0 = false →
    t = Claims.withSentinel t.status s ∧ t.status ∈ [0x0002#16, 0x0004, 0x0008, 0x0010, 0x0020]

/-- The frame of the decoders (10_state.md R39, 42_decoder.md R192): the buffer, `CRC`, `XLEN` and the operands stay, and so
does every cell of `VAL` from `VAL_N` on and of `STR` from `STR_LEN` on; DECREQ writes no cell of `STR`. -/
def Obligations.DecodersWriteOnlyTheirResults : Prop :=
  ∀ (i : Instr) (s t : State), IsDecoder i → exec i s = .next t →
    (∃ kind addr fc bc valN strLen f0 f1 f2 status vals str, t = { s with
      resKind := kind, resAddr := addr, resFc := fc, resF0 := f0, resF1 := f1, resF2 := f2, resBc := bc
      valN := valN, val := vals, strLen := strLen, str := str, status := status }) ∧
    (∀ k, t.valN.toNat ≤ k → t.val.getD k 0 = s.val.getD k 0) ∧
    (∀ k, t.strLen.toNat ≤ k → byteAt t.str k = byteAt s.str k) ∧
    (i = .decreq → t.str = s.str)

/-- After a decode, `RES_KIND = INVALID` exactly when `OK` is 0 (10_state.md R33, 42_decoder.md R191, R192,
70_reset_and_hazards.md R273); a failed decode leaves both lengths 0. -/
def Obligations.InvalidKindMeansFailedDecode : Prop :=
  ∀ (i : Instr) (s t : State), IsDecoder i → exec i s = .next t →
    (t.resKind = 0 ↔ t.status.getLsbD 0 = false) ∧ t.resKind.toNat ≤ 8 ∧
    (t.status.getLsbD 0 = false → t.valN = 0 ∧ t.strLen = 0)

/-! ### RXLEN -/

/-- The pseudocode of 42_decoder.md R222, with R223 for an unsupported function code. The corner case of R222 that gives 260 as
the largest `XLEN` is not part of it: under `DOC_FORMULA` the pseudocode and 95_test_vectors.md section 2.5 give 262
(notes/assumptions/10.md). -/
def Obligations.RxlenGivesTheExpectedLength : Prop :=
  encode .rxlen = 0xC3 ∧
  ∀ s : State, s.params.wf → exec .rxlen s = .next
    (if s.params.fbSize.toNat < s.fbLen.toNat then { s with xlen := 0, status := 0x0004 }
     else if s.fbLen.toNat < s.params.minReply.toNat then { s with xlen := s.params.minReply, status := 0x0001 }
     else
      let fc := byteAt s.fb 1
      let known (x : Nat) : State :=
        { s with xlen := BitVec.ofNat 16 x, status := if x ≤ s.fbLen.toNat then 0x0601 else 0x0201 }
      if fc = s.params.fcQuery ∨ fc = s.params.fcRead then known (5 + (byteAt s.fb 2).toNat)
      else if fc = s.params.fcWrite then known 8
      else if fc = s.params.fcWritem then
        (if s.params.xlenWritemRule = .docFormula then known (7 + (byteAt s.fb 2).toNat) else known 8)
      else { s with xlen := s.params.minReply, status := 0x0608 })

/-- A corner case of 42_decoder.md R222: for a reply DECRPL accepts that is no write-multiple reply (or under `LAYOUT`), and
once `MIN_REPLY` bytes are there, RXLEN finds the reply complete and its length is the layout length of 30_encoding.md
R94. -/
def Obligations.RxlenAgreesWithTheLayout : Prop :=
  ∀ s t : State, s.params.wf → exec .decrpl s = .next t → t.status.getLsbD 0 = true →
    s.params.minReply.toNat ≤ s.fbLen.toNat → (t.resKind ≠ 8 ∨ s.params.xlenWritemRule = .layout) →
    ∃ u, exec .rxlen s = .next u ∧ u.status = 0x0601 ∧
      u.xlen.toNat = if t.resKind = 5 ∨ t.resKind = 6 then 5 + t.resBc.toNat else 8

/-- 70_reset_and_hazards.md R277: the length RXLEN predicts for the reply ENCRWM has just written. -/
def Obligations.WriteMultipleReplyLengthHazard : Prop :=
  ∀ s : State, s.params.wf → s.params.minReply.toNat ≤ 8 →
    (s.params.xlenWritemRule = .docFormula →
      Claims.ThenRuns .encrwm .rxlen s (fun u => u.fbLen = 8 ∧ u.xlen.toNat = 7 + s.arg0.toNat / 256 ∧
        (u.status = 0x0601 ↔ s.arg0.toNat < 0x0200))) ∧
    (s.params.xlenWritemRule = .layout →
      Claims.ThenRuns .encrwm .rxlen s (fun u => u.xlen = 8 ∧ u.status = 0x0601)) ∧
    ∃ t u, exec .encrwm s = .next t ∧ exec .decrpl { t with fbLen := 7 } = .next u ∧ u.status = 0x0004

/-! ### Every command -/

/-- 10_state.md R32: after any command exactly one of bits 0 to 7 is set, `CLAMPED` comes only with `OK`, only RXLEN sets
`XFINAL` or `XDONE`, and after reset `STATUS` is 0. Bits 15:11 stay 0 (R31). -/
def Obligations.OneVerdictPerCommand : Prop :=
  (∀ (w : Byte) (s t : State), runCommand w s = .next t →
    (∃ k < 8, ∀ j < 8, t.status.getLsbD j = decide (j = k)) ∧
    (t.status.getLsbD 8 = true → t.status.getLsbD 0 = true) ∧
    (t.status.getLsbD 9 = true ∨ t.status.getLsbD 10 = true → w = 0xC3) ∧
    ∀ j, 11 ≤ j → t.status.getLsbD j = false) ∧
  State.reset.status = 0

/-- 60_exceptions.md R242: no command raises an error that the list does not give it, and each listed error is raised in some
state. -/
def Obligations.CommandsRaiseTheListedErrors : Prop :=
  (∀ (i : Instr) (s t : State) (k : Nat), exec i s = .next t → 1 ≤ k → k ≤ 7 → t.status.getLsbD k = true →
    (i, k) ∈ [(Instr.crc16, 2), (.crcchk, 2), (.crcchk, 1), (.encwm, 6), (.encrid, 6), (.encrrd, 6),
      (.decreq, 2), (.decreq, 5), (.decreq, 1), (.decreq, 3), (.decreq, 4),
      (.decrpl, 2), (.decrpl, 3), (.decrpl, 1), (.decrpl, 4), (.rxlen, 2), (.rxlen, 3)]) ∧
  ∀ (i : Instr) (k : Nat),
    (i, k) ∈ [(Instr.crc16, 2), (.crcchk, 2), (.crcchk, 1), (.encwm, 6), (.encrid, 6), (.encrrd, 6),
      (.decreq, 2), (.decreq, 5), (.decreq, 1), (.decreq, 3), (.decreq, 4),
      (.decrpl, 2), (.decrpl, 3), (.decrpl, 1), (.decrpl, 4), (.rxlen, 2), (.rxlen, 3)] →
    ∃ s t, Sound s ∧ exec i s = .next t ∧ t.status.getLsbD k = true

/-- The frame of the commands that store to no array (10_state.md R39): CRC16 and CRCCHK write `CRC` and `STATUS`, RXLEN
`XLEN` and `STATUS`, and every cell of every array reads as before. -/
def Obligations.CrcAndLengthCommandsStoreNoCell : Prop :=
  ∀ (i : Instr) (s t : State), exec i s = .next t →
    (i = .crc16 ∨ i = .crcchk → t = { s with crc := t.crc, status := t.status }) ∧
    (i = .rxlen → t = { s with xlen := t.xlen, status := t.status }) ∧
    (i = .crc16 ∨ i = .crcchk ∨ i = .rxlen →
      ∀ k, byteAt t.fb k = byteAt s.fb k ∧ t.val.getD k 0 = s.val.getD k 0 ∧ byteAt t.str k = byteAt s.str k)

/-- Which commands write which register, over all commands (10_state.md R21, R23, R26 to R30, R33, R34, R39): no command writes
`DEV_ADDR`, `ARG0` or `ARG1`, only RXLEN writes `XLEN`, only the decoders write `RES_*`, the values and the string, only the
encoders write the buffer, and the decoders, RXLEN and a usage error leave `CRC`. -/
def Obligations.EachRegisterHasItsWriters : Prop :=
  ∀ (i : Instr) (s t : State), exec i s = .next t →
    (t.devAddr = s.devAddr ∧ t.arg0 = s.arg0 ∧ t.arg1 = s.arg1) ∧
    (i ≠ .rxlen → t.xlen = s.xlen) ∧
    (¬ IsDecoder i →
      t.resKind = s.resKind ∧ t.resAddr = s.resAddr ∧ t.resFc = s.resFc ∧ t.resF0 = s.resF0 ∧ t.resF1 = s.resF1 ∧
        t.resF2 = s.resF2 ∧ t.resBc = s.resBc ∧ t.valN = s.valN ∧ t.val = s.val ∧ t.strLen = s.strLen ∧ t.str = s.str) ∧
    (¬ IsEncoder i → t.fbLen = s.fbLen ∧ t.fb = s.fb) ∧
    (IsDecoder i ∨ i = .rxlen ∨ t.status.getLsbD 6 = true → t.crc = s.crc)

/-- 10_state.md R38: the outputs of a command are a function of the registers and cells its rule reads and of the
parameters, the columns of R39; nothing else of the state makes a difference. -/
def Obligations.OutputsDependOnInputsOnly : Prop :=
  ∀ (i : Instr) (s s' t t' : State), SameInputs i s s' → exec i s = .next t → exec i s' = .next t' → SameOutputs i t t'

/-- 70_reset_and_hazards.md R279, 10_state.md R26: whatever length a byte count gives, a command that reads the buffer makes
no use of a cell at or past `FB_LEN`, nor of any cell when `FB_LEN > FB_SIZE`. -/
def Obligations.CellsPastTheFrameAreNeverRead : Prop :=
  ∀ (i : Instr) (s t : State) (cells : List Byte), s.params.wf →
    (bufferInBound s → cells.take s.fbLen.toNat = s.fb.take s.fbLen.toNat) →
    (i = .crc16 ∨ i = .crcchk ∨ i = .decreq ∨ i = .decrpl ∨ i = .rxlen) → exec i s = .next t →
    exec i { s with fb := cells } = .next { t with fb := cells }

/-! ### The invariant -/

/-- Every step from a sound state leaves a sound state: legal parameters, whole arrays, a legal `STATUS`, a `RES_KIND` that
means something. The steps are those of the model's queue of accesses (notes/assumptions/4.md), the idle one among them
(notes/assumptions/9.md), and the parameters are a field of `State` (notes/assumptions/1.md). -/
def Obligations.EveryStepKeepsTheInvariant : Prop :=
  ∀ s t : State, Sound s → step s = .next t → Sound t

/-- The machine right after reset is sound. That it is built with the spec defaults is the model's choice
(notes/assumptions/1.md). -/
def Obligations.ResetMeetsTheInvariant : Prop := Sound State.reset
end

