-- ==== Sys2Proof/Laws/Crc.lean ====
section
/-! SUPPORT. The arithmetic of the CRC step (40_crc.md R131): each shift is linear over XOR and loses nothing, and the CRC of a
sequence continued byte by byte. -/

namespace Sys2Proof.Machine

@[simp] theorem crc16_nil : crc16 [] = 0xFFFF := rfl

theorem crc16_append (a b : List Byte) : crc16 (a ++ b) = b.foldl crcStep (crc16 a) := by
  simp [crc16, List.foldl_append]

theorem crc16_concat (a : List Byte) (x : Byte) : crc16 (a ++ [x]) = crcStep (crc16 a) x := by simp [crc16_append]

@[simp] theorem crcBit_zero : crcBit 0#16 = 0#16 := by decide

/-- A shift is linear over XOR. -/
theorem crcBit_xor (c d : Word) : crcBit (c ^^^ d) = crcBit c ^^^ crcBit d := by
  unfold crcBit
  rw [BitVec.getLsbD_xor, BitVec.ushiftRight_xor_distrib]
  cases c.getLsbD 0 <;> cases d.getLsbD 0
  · simp
  · simp [BitVec.xor_assoc]
  · simp only [Bool.xor_false, if_true, if_false, Bool.false_eq_true]
    ac_rfl
  · simp only [Bool.xor_self, if_true, if_false, Bool.false_eq_true]
    have cancel (x y k : Word) : x ^^^ k ^^^ (y ^^^ k) = x ^^^ y := by
      rw [show x ^^^ k ^^^ (y ^^^ k) = x ^^^ y ^^^ (k ^^^ k) by ac_rfl]; simp
    exact (cancel _ _ _).symm

theorem crcBits_xor (n : Nat) (c d : Word) : crcBits n (c ^^^ d) = crcBits n c ^^^ crcBits n d := by
  induction n generalizing c d with
  | zero => rfl
  | succ n ih => simp [crcBits, crcBit_xor, ih]

@[simp] theorem crcBits_zero (n : Nat) : crcBits n 0#16 = 0#16 := by
  induction n with
  | zero => rfl
  | succ n ih => simp [crcBits, ih]

theorem crcBits_add (m n : Nat) (c : Word) : crcBits (m + n) c = crcBits n (crcBits m c) := by
  induction m generalizing c with
  | zero => simp [crcBits]
  | succ m ih => rw [Nat.succ_add]; simp [crcBits, ih]

/-- A shift of a non-zero value is not zero: bit 15 of the result tells whether bit 0 was lost. -/
theorem crcBit_eq_zero {c : Word} (h : crcBit c = 0) : c = 0 := by
  unfold crcBit at h
  split at h
  · have := congrArg (BitVec.getLsbD · 15) h
    simp at this
  · rename_i h0
    apply BitVec.eq_of_getLsbD_eq
    intro k hk
    cases k with
    | zero => simpa using h0
    | succ k =>
      have := congrArg (BitVec.getLsbD · k) h
      simpa [Nat.add_comm] using this

theorem crcBits_eq_zero {n : Nat} {c : Word} (h : crcBits n c = 0) : c = 0 := by
  induction n generalizing c with
  | zero => exact h
  | succ n ih => exact crcBit_eq_zero (ih h)

/-- A byte step is linear over XOR in both arguments. -/
theorem crcStep_xor (c d : Word) (x y : Byte) : crcStep (c ^^^ d) (x ^^^ y) = crcStep c x ^^^ crcStep d y := by
  rw [crcStep, crcStep, crcStep, ← crcBits_xor]
  congr 1
  simp only [zext16, BitVec.setWidth_xor]
  ac_rfl

/-- Bytes after a difference never cancel it: the step is injective in the running value. -/
theorem crcStep_left_injective {c d : Word} {x : Byte} (h : crcStep c x = crcStep d x) : c = d := by
  have h2 : crcStep (c ^^^ d) (x ^^^ x) = 0 := by rw [crcStep_xor, h]; simp
  have h3 := crcBits_eq_zero h2
  simpa [zext16] using h3

/-- A zero byte after a zero running value leaves it zero (95_test_vectors.md 2.1.2). -/
@[simp] theorem crcStep_zero_zero : crcStep 0#16 0#8 = 0#16 := by simp [crcStep, zext16]

end Sys2Proof.Machine
end

