-- ==== Sys2Proof/Laws/Status.lean ====
section
/-! SUPPORT. The values of `STATUS` that commands write (10_state.md R31), as numbers. -/

namespace Sys2Proof.Machine

@[simp] theorem statusWord_ok : statusWord [.ok] = 0x0001#16 := by decide
@[simp] theorem statusWord_ok_clamped : statusWord [.ok, .clamped] = 0x0101#16 := by decide
@[simp] theorem statusWord_ok_xfinal : statusWord [.ok, .xfinal] = 0x0201#16 := by decide
@[simp] theorem statusWord_ok_xfinal_xdone : statusWord [.ok, .xfinal, .xdone] = 0x0601#16 := by decide
@[simp] theorem statusWord_crcErr : statusWord [.crcErr] = 0x0002#16 := by decide
@[simp] theorem statusWord_lenErr : statusWord [.lenErr] = 0x0004#16 := by decide
@[simp] theorem statusWord_fcErr : statusWord [.fcErr] = 0x0008#16 := by decide
@[simp] theorem statusWord_fcErr_xfinal_xdone : statusWord [.fcErr, .xfinal, .xdone] = 0x0608#16 := by decide
@[simp] theorem statusWord_fmtErr : statusWord [.fmtErr] = 0x0010#16 := by decide
@[simp] theorem statusWord_addrErr : statusWord [.addrErr] = 0x0020#16 := by decide
@[simp] theorem statusWord_usageErr : statusWord [.usageErr] = 0x0040#16 := by decide
@[simp] theorem statusWord_cmdErr : statusWord [.cmdErr] = 0x0080#16 := by decide

end Sys2Proof.Machine
end

