-- ==== Sys2Proof/Laws/State.lean ====
section
/-! SUPPORT. One lemma per field of `State` per shared update of Machine/Ops.lean and Machine/Flags.lean, each true by definition,
so that no later proof unfolds an update. -/

namespace Sys2Proof.Machine

/-! ### `setStatus` -/
section
variable (bits : List StatusBit) (s : State)

@[simp] theorem setStatus_params : (setStatus bits s).params = s.params := rfl
@[simp] theorem setStatus_status : (setStatus bits s).status = statusWord bits := rfl
@[simp] theorem setStatus_devAddr : (setStatus bits s).devAddr = s.devAddr := rfl
@[simp] theorem setStatus_arg0 : (setStatus bits s).arg0 = s.arg0 := rfl
@[simp] theorem setStatus_arg1 : (setStatus bits s).arg1 = s.arg1 := rfl
@[simp] theorem setStatus_fbLen : (setStatus bits s).fbLen = s.fbLen := rfl
@[simp] theorem setStatus_fb : (setStatus bits s).fb = s.fb := rfl
@[simp] theorem setStatus_valN : (setStatus bits s).valN = s.valN := rfl
@[simp] theorem setStatus_val : (setStatus bits s).val = s.val := rfl
@[simp] theorem setStatus_strLen : (setStatus bits s).strLen = s.strLen := rfl
@[simp] theorem setStatus_str : (setStatus bits s).str = s.str := rfl
@[simp] theorem setStatus_crc : (setStatus bits s).crc = s.crc := rfl
@[simp] theorem setStatus_xlen : (setStatus bits s).xlen = s.xlen := rfl
@[simp] theorem setStatus_resKind : (setStatus bits s).resKind = s.resKind := rfl
@[simp] theorem setStatus_resAddr : (setStatus bits s).resAddr = s.resAddr := rfl
@[simp] theorem setStatus_resFc : (setStatus bits s).resFc = s.resFc := rfl
@[simp] theorem setStatus_resF0 : (setStatus bits s).resF0 = s.resF0 := rfl
@[simp] theorem setStatus_resF1 : (setStatus bits s).resF1 = s.resF1 := rfl
@[simp] theorem setStatus_resF2 : (setStatus bits s).resF2 = s.resF2 := rfl
@[simp] theorem setStatus_resBc : (setStatus bits s).resBc = s.resBc := rfl
@[simp] theorem setStatus_resets : (setStatus bits s).resets = s.resets := rfl
@[simp] theorem setStatus_pending : (setStatus bits s).pending = s.pending := rfl
@[simp] theorem setStatus_readLog : (setStatus bits s).readLog = s.readLog := rfl

end

/-! ### `illegalCommand` -/
section
variable (s : State)

@[simp] theorem illegalCommand_params : (illegalCommand s).params = s.params := rfl
@[simp] theorem illegalCommand_status : (illegalCommand s).status = statusWord [.cmdErr] := rfl
@[simp] theorem illegalCommand_devAddr : (illegalCommand s).devAddr = s.devAddr := rfl
@[simp] theorem illegalCommand_arg0 : (illegalCommand s).arg0 = s.arg0 := rfl
@[simp] theorem illegalCommand_arg1 : (illegalCommand s).arg1 = s.arg1 := rfl
@[simp] theorem illegalCommand_fbLen : (illegalCommand s).fbLen = s.fbLen := rfl
@[simp] theorem illegalCommand_fb : (illegalCommand s).fb = s.fb := rfl
@[simp] theorem illegalCommand_valN : (illegalCommand s).valN = s.valN := rfl
@[simp] theorem illegalCommand_val : (illegalCommand s).val = s.val := rfl
@[simp] theorem illegalCommand_strLen : (illegalCommand s).strLen = s.strLen := rfl
@[simp] theorem illegalCommand_str : (illegalCommand s).str = s.str := rfl
@[simp] theorem illegalCommand_crc : (illegalCommand s).crc = s.crc := rfl
@[simp] theorem illegalCommand_xlen : (illegalCommand s).xlen = s.xlen := rfl
@[simp] theorem illegalCommand_resKind : (illegalCommand s).resKind = s.resKind := rfl
@[simp] theorem illegalCommand_resAddr : (illegalCommand s).resAddr = s.resAddr := rfl
@[simp] theorem illegalCommand_resFc : (illegalCommand s).resFc = s.resFc := rfl
@[simp] theorem illegalCommand_resF0 : (illegalCommand s).resF0 = s.resF0 := rfl
@[simp] theorem illegalCommand_resF1 : (illegalCommand s).resF1 = s.resF1 := rfl
@[simp] theorem illegalCommand_resF2 : (illegalCommand s).resF2 = s.resF2 := rfl
@[simp] theorem illegalCommand_resBc : (illegalCommand s).resBc = s.resBc := rfl
@[simp] theorem illegalCommand_resets : (illegalCommand s).resets = s.resets := rfl
@[simp] theorem illegalCommand_pending : (illegalCommand s).pending = s.pending := rfl
@[simp] theorem illegalCommand_readLog : (illegalCommand s).readLog = s.readLog := rfl

end

/-! ### `emit` -/
section
variable (body : List Byte) (extra : List StatusBit) (s : State)

@[simp] theorem emit_params : (emit body extra s).params = s.params := rfl
@[simp] theorem emit_status : (emit body extra s).status = statusWord (.ok :: extra) := rfl
@[simp] theorem emit_devAddr : (emit body extra s).devAddr = s.devAddr := rfl
@[simp] theorem emit_arg0 : (emit body extra s).arg0 = s.arg0 := rfl
@[simp] theorem emit_arg1 : (emit body extra s).arg1 = s.arg1 := rfl
@[simp] theorem emit_fbLen : (emit body extra s).fbLen = BitVec.ofNat 16 (body.length + 2) := rfl
@[simp] theorem emit_fb : (emit body extra s).fb = storeAtFront (appendCrc body) s.fb := rfl
@[simp] theorem emit_valN : (emit body extra s).valN = s.valN := rfl
@[simp] theorem emit_val : (emit body extra s).val = s.val := rfl
@[simp] theorem emit_strLen : (emit body extra s).strLen = s.strLen := rfl
@[simp] theorem emit_str : (emit body extra s).str = s.str := rfl
@[simp] theorem emit_crc : (emit body extra s).crc = crc16 body := rfl
@[simp] theorem emit_xlen : (emit body extra s).xlen = s.xlen := rfl
@[simp] theorem emit_resKind : (emit body extra s).resKind = s.resKind := rfl
@[simp] theorem emit_resAddr : (emit body extra s).resAddr = s.resAddr := rfl
@[simp] theorem emit_resFc : (emit body extra s).resFc = s.resFc := rfl
@[simp] theorem emit_resF0 : (emit body extra s).resF0 = s.resF0 := rfl
@[simp] theorem emit_resF1 : (emit body extra s).resF1 = s.resF1 := rfl
@[simp] theorem emit_resF2 : (emit body extra s).resF2 = s.resF2 := rfl
@[simp] theorem emit_resBc : (emit body extra s).resBc = s.resBc := rfl
@[simp] theorem emit_resets : (emit body extra s).resets = s.resets := rfl
@[simp] theorem emit_pending : (emit body extra s).pending = s.pending := rfl
@[simp] theorem emit_readLog : (emit body extra s).readLog = s.readLog := rfl

end

/-! ### `usageError` -/
section
variable (s : State)

@[simp] theorem usageError_params : (usageError s).params = s.params := rfl
@[simp] theorem usageError_status : (usageError s).status = statusWord [.usageErr] := rfl
@[simp] theorem usageError_devAddr : (usageError s).devAddr = s.devAddr := rfl
@[simp] theorem usageError_arg0 : (usageError s).arg0 = s.arg0 := rfl
@[simp] theorem usageError_arg1 : (usageError s).arg1 = s.arg1 := rfl
@[simp] theorem usageError_fbLen : (usageError s).fbLen = 0 := rfl
@[simp] theorem usageError_fb : (usageError s).fb = s.fb := rfl
@[simp] theorem usageError_valN : (usageError s).valN = s.valN := rfl
@[simp] theorem usageError_val : (usageError s).val = s.val := rfl
@[simp] theorem usageError_strLen : (usageError s).strLen = s.strLen := rfl
@[simp] theorem usageError_str : (usageError s).str = s.str := rfl
@[simp] theorem usageError_crc : (usageError s).crc = s.crc := rfl
@[simp] theorem usageError_xlen : (usageError s).xlen = s.xlen := rfl
@[simp] theorem usageError_resKind : (usageError s).resKind = s.resKind := rfl
@[simp] theorem usageError_resAddr : (usageError s).resAddr = s.resAddr := rfl
@[simp] theorem usageError_resFc : (usageError s).resFc = s.resFc := rfl
@[simp] theorem usageError_resF0 : (usageError s).resF0 = s.resF0 := rfl
@[simp] theorem usageError_resF1 : (usageError s).resF1 = s.resF1 := rfl
@[simp] theorem usageError_resF2 : (usageError s).resF2 = s.resF2 := rfl
@[simp] theorem usageError_resBc : (usageError s).resBc = s.resBc := rfl
@[simp] theorem usageError_resets : (usageError s).resets = s.resets := rfl
@[simp] theorem usageError_pending : (usageError s).pending = s.pending := rfl
@[simp] theorem usageError_readLog : (usageError s).readLog = s.readLog := rfl

end

/-! ### `result` -/
section
variable (d : Decoded) (s : State)

@[simp] theorem result_params : (result d s).params = s.params := rfl
@[simp] theorem result_status : (result d s).status = statusWord (.ok :: d.extra) := rfl
@[simp] theorem result_devAddr : (result d s).devAddr = s.devAddr := rfl
@[simp] theorem result_arg0 : (result d s).arg0 = s.arg0 := rfl
@[simp] theorem result_arg1 : (result d s).arg1 = s.arg1 := rfl
@[simp] theorem result_fbLen : (result d s).fbLen = s.fbLen := rfl
@[simp] theorem result_fb : (result d s).fb = s.fb := rfl
@[simp] theorem result_valN : (result d s).valN = BitVec.ofNat 8 d.vals.length := rfl
@[simp] theorem result_val : (result d s).val = storeAtFront d.vals s.val := rfl
@[simp] theorem result_strLen : (result d s).strLen = BitVec.ofNat 8 d.str.length := rfl
@[simp] theorem result_str : (result d s).str = storeAtFront d.str s.str := rfl
@[simp] theorem result_crc : (result d s).crc = s.crc := rfl
@[simp] theorem result_xlen : (result d s).xlen = s.xlen := rfl
@[simp] theorem result_resKind : (result d s).resKind = d.kind := rfl
@[simp] theorem result_resAddr : (result d s).resAddr = byteAt (frame s) 0 := rfl
@[simp] theorem result_resFc : (result d s).resFc = byteAt (frame s) 1 := rfl
@[simp] theorem result_resF0 : (result d s).resF0 = d.f0 := rfl
@[simp] theorem result_resF1 : (result d s).resF1 = d.f1 := rfl
@[simp] theorem result_resF2 : (result d s).resF2 = d.f2 := rfl
@[simp] theorem result_resBc : (result d s).resBc = d.bc := rfl
@[simp] theorem result_resets : (result d s).resets = s.resets := rfl
@[simp] theorem result_pending : (result d s).pending = s.pending := rfl
@[simp] theorem result_readLog : (result d s).readLog = s.readLog := rfl

end

/-! ### `sentinel` -/
section
variable (err : StatusBit) (s : State)

@[simp] theorem sentinel_params : (sentinel err s).params = s.params := rfl
@[simp] theorem sentinel_status : (sentinel err s).status = statusWord [err] := rfl
@[simp] theorem sentinel_devAddr : (sentinel err s).devAddr = s.devAddr := rfl
@[simp] theorem sentinel_arg0 : (sentinel err s).arg0 = s.arg0 := rfl
@[simp] theorem sentinel_arg1 : (sentinel err s).arg1 = s.arg1 := rfl
@[simp] theorem sentinel_fbLen : (sentinel err s).fbLen = s.fbLen := rfl
@[simp] theorem sentinel_fb : (sentinel err s).fb = s.fb := rfl
@[simp] theorem sentinel_valN : (sentinel err s).valN = 0 := rfl
@[simp] theorem sentinel_val : (sentinel err s).val = s.val := rfl
@[simp] theorem sentinel_strLen : (sentinel err s).strLen = 0 := rfl
@[simp] theorem sentinel_str : (sentinel err s).str = s.str := rfl
@[simp] theorem sentinel_crc : (sentinel err s).crc = s.crc := rfl
@[simp] theorem sentinel_xlen : (sentinel err s).xlen = s.xlen := rfl
@[simp] theorem sentinel_resKind : (sentinel err s).resKind = kindInvalid := rfl
@[simp] theorem sentinel_resAddr : (sentinel err s).resAddr = 0 := rfl
@[simp] theorem sentinel_resFc : (sentinel err s).resFc = 0 := rfl
@[simp] theorem sentinel_resF0 : (sentinel err s).resF0 = 0 := rfl
@[simp] theorem sentinel_resF1 : (sentinel err s).resF1 = 0 := rfl
@[simp] theorem sentinel_resF2 : (sentinel err s).resF2 = 0 := rfl
@[simp] theorem sentinel_resBc : (sentinel err s).resBc = 0 := rfl
@[simp] theorem sentinel_resets : (sentinel err s).resets = s.resets := rfl
@[simp] theorem sentinel_pending : (sentinel err s).pending = s.pending := rfl
@[simp] theorem sentinel_readLog : (sentinel err s).readLog = s.readLog := rfl

end

/-! ### `returnToHost` -/
section
variable (v : Word) (s : State)

@[simp] theorem returnToHost_params : (returnToHost v s).params = s.params := rfl
@[simp] theorem returnToHost_status : (returnToHost v s).status = s.status := rfl
@[simp] theorem returnToHost_devAddr : (returnToHost v s).devAddr = s.devAddr := rfl
@[simp] theorem returnToHost_arg0 : (returnToHost v s).arg0 = s.arg0 := rfl
@[simp] theorem returnToHost_arg1 : (returnToHost v s).arg1 = s.arg1 := rfl
@[simp] theorem returnToHost_fbLen : (returnToHost v s).fbLen = s.fbLen := rfl
@[simp] theorem returnToHost_fb : (returnToHost v s).fb = s.fb := rfl
@[simp] theorem returnToHost_valN : (returnToHost v s).valN = s.valN := rfl
@[simp] theorem returnToHost_val : (returnToHost v s).val = s.val := rfl
@[simp] theorem returnToHost_strLen : (returnToHost v s).strLen = s.strLen := rfl
@[simp] theorem returnToHost_str : (returnToHost v s).str = s.str := rfl
@[simp] theorem returnToHost_crc : (returnToHost v s).crc = s.crc := rfl
@[simp] theorem returnToHost_xlen : (returnToHost v s).xlen = s.xlen := rfl
@[simp] theorem returnToHost_resKind : (returnToHost v s).resKind = s.resKind := rfl
@[simp] theorem returnToHost_resAddr : (returnToHost v s).resAddr = s.resAddr := rfl
@[simp] theorem returnToHost_resFc : (returnToHost v s).resFc = s.resFc := rfl
@[simp] theorem returnToHost_resF0 : (returnToHost v s).resF0 = s.resF0 := rfl
@[simp] theorem returnToHost_resF1 : (returnToHost v s).resF1 = s.resF1 := rfl
@[simp] theorem returnToHost_resF2 : (returnToHost v s).resF2 = s.resF2 := rfl
@[simp] theorem returnToHost_resBc : (returnToHost v s).resBc = s.resBc := rfl
@[simp] theorem returnToHost_resets : (returnToHost v s).resets = s.resets := rfl
@[simp] theorem returnToHost_pending : (returnToHost v s).pending = s.pending := rfl
@[simp] theorem returnToHost_readLog : (returnToHost v s).readLog = v :: s.readLog := rfl

end

/-! ### `hostReset` -/
section
variable (s : State)

@[simp] theorem hostReset_params : (hostReset s).params = s.params := rfl
@[simp] theorem hostReset_status : (hostReset s).status = (State.afterReset s.params (s.resets + 1)).status := rfl
@[simp] theorem hostReset_devAddr : (hostReset s).devAddr = (State.afterReset s.params (s.resets + 1)).devAddr := rfl
@[simp] theorem hostReset_arg0 : (hostReset s).arg0 = (State.afterReset s.params (s.resets + 1)).arg0 := rfl
@[simp] theorem hostReset_arg1 : (hostReset s).arg1 = (State.afterReset s.params (s.resets + 1)).arg1 := rfl
@[simp] theorem hostReset_fbLen : (hostReset s).fbLen = (State.afterReset s.params (s.resets + 1)).fbLen := rfl
@[simp] theorem hostReset_fb : (hostReset s).fb = (State.afterReset s.params (s.resets + 1)).fb := rfl
@[simp] theorem hostReset_valN : (hostReset s).valN = (State.afterReset s.params (s.resets + 1)).valN := rfl
@[simp] theorem hostReset_val : (hostReset s).val = (State.afterReset s.params (s.resets + 1)).val := rfl
@[simp] theorem hostReset_strLen : (hostReset s).strLen = (State.afterReset s.params (s.resets + 1)).strLen := rfl
@[simp] theorem hostReset_str : (hostReset s).str = (State.afterReset s.params (s.resets + 1)).str := rfl
@[simp] theorem hostReset_crc : (hostReset s).crc = (State.afterReset s.params (s.resets + 1)).crc := rfl
@[simp] theorem hostReset_xlen : (hostReset s).xlen = (State.afterReset s.params (s.resets + 1)).xlen := rfl
@[simp] theorem hostReset_resKind : (hostReset s).resKind = (State.afterReset s.params (s.resets + 1)).resKind := rfl
@[simp] theorem hostReset_resAddr : (hostReset s).resAddr = (State.afterReset s.params (s.resets + 1)).resAddr := rfl
@[simp] theorem hostReset_resFc : (hostReset s).resFc = (State.afterReset s.params (s.resets + 1)).resFc := rfl
@[simp] theorem hostReset_resF0 : (hostReset s).resF0 = (State.afterReset s.params (s.resets + 1)).resF0 := rfl
@[simp] theorem hostReset_resF1 : (hostReset s).resF1 = (State.afterReset s.params (s.resets + 1)).resF1 := rfl
@[simp] theorem hostReset_resF2 : (hostReset s).resF2 = (State.afterReset s.params (s.resets + 1)).resF2 := rfl
@[simp] theorem hostReset_resBc : (hostReset s).resBc = (State.afterReset s.params (s.resets + 1)).resBc := rfl
@[simp] theorem hostReset_resets : (hostReset s).resets = s.resets + 1 := rfl
@[simp] theorem hostReset_pending : (hostReset s).pending = s.pending := rfl
@[simp] theorem hostReset_readLog : (hostReset s).readLog = s.readLog := rfl

end

end Sys2Proof.Machine
end

