-- ==== Sys2Proof/Laws/Ops.lean ====
section
/-! SUPPORT. What the shared operations do to the buffer and the arrays, said once: lengths, the cells written, the cells kept,
and the frame an encoder leaves. -/

namespace Sys2Proof.Machine

/-! ### Cells written from offset 0 -/

section
variable {α : Type} (xs cells : List α)

@[simp] theorem storeAtFront_nil : storeAtFront [] cells = cells := rfl

theorem storeAtFront_length (h : xs.length ≤ cells.length) : (storeAtFront xs cells).length = cells.length := by
  simp [storeAtFront]; omega

@[simp] theorem storeAtFront_take : (storeAtFront xs cells).take xs.length = xs := by simp [storeAtFront]

theorem storeAtFront_getD_written (d : α) {k : Nat} (h : k < xs.length) :
    (storeAtFront xs cells).getD k d = xs.getD k d := by
  simp [storeAtFront, List.getD_eq_getElem?_getD, List.getElem?_append_left h]

theorem storeAtFront_getD_kept (d : α) {k : Nat} (h : xs.length ≤ k) :
    (storeAtFront xs cells).getD k d = cells.getD k d := by
  simp [storeAtFront, List.getD_eq_getElem?_getD, List.getElem?_append_right h, List.getElem?_drop, h]

end

/-! ### Bytes, fields and values -/

theorem byteAt_take (b : List Byte) {k n : Nat} (h : k < n) : byteAt (b.take n) k = byteAt b k := by
  simp [byteAt, List.getD_eq_getElem?_getD, h]

theorem byteAt_append_left (a b : List Byte) {k : Nat} (h : k < a.length) : byteAt (a ++ b) k = byteAt a k := by
  simp [byteAt, List.getD_eq_getElem?_getD, List.getElem?_append_left h]

theorem byteAt_append_right (a b : List Byte) (k : Nat) : byteAt (a ++ b) (a.length + k) = byteAt b k := by
  simp [byteAt, List.getD_eq_getElem?_getD, List.getElem?_append_right]

theorem field16_take (b : List Byte) {o n : Nat} (h : o + 1 < n) : field16 (b.take n) o = field16 b o := by
  simp [field16, byteAt_take b (show o < n by omega), byteAt_take b h]

theorem valuesFromWire_take (b : List Byte) {o k n : Nat} (h : o + 2 * k ≤ n) :
    valuesFromWire (b.take n) o k = valuesFromWire b o k :=
  List.map_congr_left fun i hi => field16_take b (by have := List.mem_range.1 hi; omega)

@[simp] theorem valuesFromWire_length (b : List Byte) (o k : Nat) : (valuesFromWire b o k).length = k := by
  simp [valuesFromWire]

@[simp] theorem wireBytes_length (v : Word) : (wireBytes v).length = 2 := rfl

@[simp] theorem valuesToWire_length (vs : List Word) : (valuesToWire vs).length = 2 * vs.length := by
  induction vs with
  | nil => rfl
  | cons v vs ih => simp_all [valuesToWire]; omega

/-- `be16(h, l) = h * 256 + l` (00_scope.md R10). -/
theorem be16_toNat (h l : Byte) : (be16 h l).toNat = h.toNat * 256 + l.toNat := by
  have hl : (h ++ l).toNat = h.toNat <<< 8 ||| l.toNat := BitVec.toNat_append h l
  rw [be16, hl, ← Nat.shiftLeft_add_eq_or_of_lt l.isLt, Nat.shiftLeft_eq]

theorem hi8_toNat (v : Word) : (hi8 v).toNat = v.toNat / 256 := by
  have := v.isLt
  simp [hi8, BitVec.extractLsb'_toNat, Nat.shiftRight_eq_div_pow]; omega

theorem lo8_toNat (v : Word) : (lo8 v).toNat = v.toNat % 256 := by simp [lo8, BitVec.extractLsb'_toNat]

@[simp] theorem zext16_toNat (b : Byte) : (zext16 b).toNat = b.toNat := by
  have := b.isLt
  simp [zext16]; omega

/-- A 16-bit value split into its two bytes and joined again is the value (30_encoding.md R95). -/
@[simp] theorem be16_hi8_lo8 (v : Word) : be16 (hi8 v) (lo8 v) = v := by
  apply BitVec.eq_of_getLsbD_eq
  intro k hk
  rw [be16, hi8, lo8, BitVec.getLsbD_append]
  by_cases h : k < 8
  · simp [h]
  · simp [h, show k - 8 < 8 by omega, show 8 + (k - 8) = k by omega]

/-- Values written to the wire and read back are the values (41_encoder.md R162). -/
theorem valuesFromWire_valuesToWire (a rest : List Byte) (vs : List Word) :
    valuesFromWire (a ++ valuesToWire vs ++ rest) a.length vs.length = vs := by
  induction vs generalizing a with
  | nil => rfl
  | cons v vs ih =>
    have hcons : a ++ valuesToWire (v :: vs) ++ rest = (a ++ wireBytes v) ++ valuesToWire vs ++ rest := by
      simp [valuesToWire]
    have hhead : field16 (a ++ valuesToWire (v :: vs) ++ rest) a.length = v := by
      have h0 := byteAt_append_right a (wireBytes v ++ (valuesToWire vs ++ rest)) 0
      have h1 := byteAt_append_right a (wireBytes v ++ (valuesToWire vs ++ rest)) 1
      rw [hcons]
      simp only [List.append_assoc, field16, Nat.add_zero] at h0 h1 ⊢
      rw [h0, h1]
      exact be16_hi8_lo8 v
    have htail := ih (a ++ wireBytes v)
    simp only [List.length_append, wireBytes_length] at htail
    rw [valuesFromWire, List.length_cons, List.range_succ_eq_map, List.map_cons, List.map_map]
    refine congrArg₂ List.cons hhead ?_
    conv_rhs => rw [← htail]
    rw [valuesFromWire, ← hcons]
    refine List.map_congr_left fun i _ => ?_
    simp only [Function.comp]
    congr 1
    omega

/-! ### The frame -/

@[simp] theorem appendCrc_length (body : List Byte) : (appendCrc body).length = body.length + 2 := by simp [appendCrc]

theorem frame_length_le (s : State) : (frame s).length ≤ s.fbLen.toNat := by simp [frame]

theorem frame_length (s : State) (hm : Memory.wf s) (hb : bufferInBound s) : (frame s).length = s.fbLen.toNat := by
  have := hm.1
  simp [frame]; omega

/-- What an encoder's common ending leaves in the buffer: the body with its CRC (41_encoder.md R150). -/
theorem frame_emit (body : List Byte) (extra : List StatusBit) (s : State) (h : body.length + 2 < 65536) :
    frame (emit body extra s) = appendCrc body := by
  have : (BitVec.ofNat 16 (body.length + 2)).toNat = (appendCrc body).length := by simp; omega
  rw [frame, emit_fbLen, emit_fb, this, storeAtFront_take]

theorem frame_usageError (s : State) : frame (usageError s) = [] := by simp [frame]

theorem values_length_le (s : State) : (values s).length ≤ s.valN.toNat := by simp [values]

theorem values_length (s : State) (hm : Memory.wf s) (h : s.valN.toNat ≤ 127) : (values s).length = s.valN.toNat := by
  have := hm.2.1
  simp [values, this, Config.valCap]; omega

theorem string_length_le (s : State) : (string s).length ≤ s.strLen.toNat := by simp [string]

theorem string_length (s : State) (hm : Memory.wf s) (h : s.strLen.toNat ≤ 253) : (string s).length = s.strLen.toNat := by
  have := hm.2.2
  simp [string, this, Config.strCap]; omega

/-- The values a decoder leaves, when there are fewer than 256 of them (42_decoder.md R192). -/
theorem values_result (d : Decoded) (s : State) (h : d.vals.length < 256) : values (result d s) = d.vals := by
  have : (BitVec.ofNat 8 d.vals.length).toNat = d.vals.length := by simp; omega
  simp [values, this]

/-- The string a decoder leaves, when it has fewer than 256 bytes (42_decoder.md R192). -/
theorem string_result (d : Decoded) (s : State) (h : d.str.length < 256) : string (result d s) = d.str := by
  have : (BitVec.ofNat 8 d.str.length).toNat = d.str.length := by simp; omega
  simp [string, this]

end Sys2Proof.Machine
end

