-- ==== Sys2Proof/Laws/Decoder.lean ====
section
/-! SUPPORT. What the decoders can find, said once: each accepted frame is one of its four kinds with its layout length, and each
rejected one has one of the five decoder errors. -/

namespace Sys2Proof.Machine

/-- The five errors a decoder reports (42_decoder.md R191). -/
def decodeErrors : List StatusBit := [.crcErr, .lenErr, .fcErr, .fmtErr, .addrErr]

/-! ### DECREQ -/

/-- What an accepted request is: its checks passed and it is one of the four kinds at its layout length. -/
theorem decodeRequest_ok {s : State} {d : Decoded} (h : decodeRequest s = .ok d) :
    bufferInBound s ∧ 4 ≤ s.fbLen.toNat ∧ byteAt (frame s) 0 = s.devAddr ∧ validate (frame s) = true ∧
    ((byteAt (frame s) 1 = s.params.fcQuery ∧ s.fbLen.toNat = 4 ∧ d = queryFields) ∨
     (byteAt (frame s) 1 = s.params.fcRead ∧ s.fbLen.toNat = 8 ∧ d = readFields (frame s)) ∨
     (byteAt (frame s) 1 = s.params.fcWrite ∧ s.fbLen.toNat = 8 ∧ d = twoFields kindReqWrite (frame s)) ∨
     (byteAt (frame s) 1 = s.params.fcWritem ∧ s.fbLen.toNat = 9 + (byteAt (frame s) 6).toNat ∧
       writemFields (frame s) = .ok d)) := by
  unfold decodeRequest requestVerdict requestLength requestFields at h
  split at h
  case isFalse => cases h
  split at h
  case isTrue => cases h
  split at h
  case isTrue => cases h
  split at h
  case isTrue => cases h
  rename_i hb h4 ha hv
  refine ⟨hb, by omega, by simpa using ha, by simpa using hv, ?_⟩
  generalize byteAt (frame s) 1 = fc at *
  grind (splits := 20)

/-- The fields of an accepted write-multiple request. -/
theorem writemFields_ok {b : List Byte} {d : Decoded} (h : writemFields b = .ok d) :
    (byteAt b 6).toNat = 2 * (field16 b 4).toNat ∧
    d = { kind := kindReqWritem, f0 := field16 b 2, f1 := field16 b 4, f2 := 0, bc := byteAt b 6,
          vals := valuesFromWire b 7 (field16 b 4).toNat, str := [], extra := [] } := by
  unfold writemFields at h
  split at h
  · cases h
  · exact ⟨by omega, by simpa using h.symm⟩

/-- A rejected request has one of the decoder errors. -/
theorem decodeRequest_error {s : State} {err : StatusBit} (h : decodeRequest s = .error err) : err ∈ decodeErrors := by
  unfold decodeRequest requestVerdict requestLength requestFields writemFields at h
  grind (splits := 30) [decodeErrors]

/-! ### DECRPL -/

/-- The fields of an accepted identification reply. -/
theorem idFields_ok {b : List Byte} {d : Decoded} (h : idFields b = .ok d) :
    2 ≤ (byteAt b 2).toNat ∧
    d = { kind := kindRplId, f0 := zext16 (byteAt b 3), f1 := zext16 (byteAt b 4), f2 := 0, bc := byteAt b 2, vals := [],
          str := slice b 5 (5 + (byteAt b 2).toNat - 2), extra := [] } := by
  unfold idFields at h
  split at h
  · cases h
  · exact ⟨by omega, by simpa using h.symm⟩

/-- The fields of an accepted read reply. -/
theorem readReplyFields_ok {b : List Byte} {d : Decoded} (h : readReplyFields b = .ok d) :
    (byteAt b 2).toNat % 2 = 0 ∧
    d = { kind := kindRplRead, f0 := 0, f1 := 0, f2 := 0, bc := byteAt b 2,
          vals := valuesFromWire b 3 ((byteAt b 2).toNat / 2), str := [], extra := [] } := by
  unfold readReplyFields at h
  split at h
  · cases h
  · exact ⟨by omega, by simpa using h.symm⟩

/-- What an accepted reply is: one of the four kinds, all of its layout length there, its CRC right. -/
theorem decodeReply_ok {s : State} {d : Decoded} (h : decodeReply s = .ok d) :
    bufferInBound s ∧ 2 ≤ s.fbLen.toNat ∧
    ((byteAt (frame s) 1 = s.params.fcQuery ∧ 5 + (byteAt (frame s) 2).toNat ≤ s.fbLen.toNat ∧
        validate ((frame s).take (5 + (byteAt (frame s) 2).toNat)) = true ∧ idFields (frame s) = .ok d) ∨
     (byteAt (frame s) 1 = s.params.fcRead ∧ 5 + (byteAt (frame s) 2).toNat ≤ s.fbLen.toNat ∧
        validate ((frame s).take (5 + (byteAt (frame s) 2).toNat)) = true ∧ readReplyFields (frame s) = .ok d) ∨
     (byteAt (frame s) 1 = s.params.fcWrite ∧ 8 ≤ s.fbLen.toNat ∧ validate ((frame s).take 8) = true ∧
        d = twoFields kindRplWrite (frame s)) ∨
     (byteAt (frame s) 1 = s.params.fcWritem ∧ 8 ≤ s.fbLen.toNat ∧ validate ((frame s).take 8) = true ∧
        d = twoFields kindRplWritem (frame s))) := by
  unfold decodeReply replyVerdict replyLength replyFields at h
  split at h
  case isFalse => cases h
  split at h
  case isTrue => cases h
  rename_i hb h2
  refine ⟨hb, by omega, ?_⟩
  generalize byteAt (frame s) 1 = fc at *
  grind (splits := 20)

/-- A rejected reply has one of the decoder errors. -/
theorem decodeReply_error {s : State} {err : StatusBit} (h : decodeReply s = .error err) : err ∈ decodeErrors := by
  unfold decodeReply replyVerdict replyLength replyFields idFields readReplyFields at h
  grind (splits := 30) [decodeErrors]

/-! ### The lists a decoder writes fit their arrays -/

/-- A decoder writes at most 127 values and 253 bytes of string, only `CLAMPED` beside `OK`, and a kind from 1 to 8. -/
structure Decoded.Fits (d : Decoded) : Prop where
  vals : d.vals.length ≤ Config.valCap
  str : d.str.length ≤ Config.strCap
  extra : d.extra = [] ∨ d.extra = [.clamped]
  kind : 1 ≤ d.kind.toNat ∧ d.kind.toNat ≤ 8

theorem decodeRequest_fits {s : State} {d : Decoded} (h : decodeRequest s = .ok d) : d.Fits := by
  obtain ⟨-, -, -, -, ⟨-, -, rfl⟩ | ⟨-, -, rfl⟩ | ⟨-, -, rfl⟩ | ⟨-, -, hw⟩⟩ := decodeRequest_ok h
  · exact ⟨by decide, by decide, by decide, by decide⟩
  · refine ⟨by simp [readFields], by simp [readFields], ?_, by simp [readFields, kindReqRead]⟩
    by_cases hc : clamp (field16 (frame s) 4) = field16 (frame s) 4 <;> simp [readFields, bitIf, hc]
  · exact ⟨by simp [twoFields], by simp [twoFields], .inl rfl, by simp [twoFields, kindReqWrite]⟩
  · obtain ⟨hbc, rfl⟩ := writemFields_ok hw
    have := (byteAt (frame s) 6).isLt
    exact ⟨by simp [Config.valCap]; omega, by simp, .inl rfl, by simp [kindReqWritem]⟩

theorem decodeReply_fits {s : State} {d : Decoded} (h : decodeReply s = .ok d) : d.Fits := by
  have hlt := (byteAt (frame s) 2).isLt
  obtain ⟨-, -, ⟨-, -, -, hi⟩ | ⟨-, -, -, hr⟩ | ⟨-, -, -, rfl⟩ | ⟨-, -, -, rfl⟩⟩ := decodeReply_ok h
  · obtain ⟨-, rfl⟩ := idFields_ok hi
    exact ⟨by simp, by simp [slice, Config.strCap]; omega, .inl rfl, by simp [kindRplId]⟩
  · obtain ⟨-, rfl⟩ := readReplyFields_ok hr
    exact ⟨by simp [Config.valCap]; omega, by simp, .inl rfl, by simp [kindRplRead]⟩
  · exact ⟨by simp [twoFields], by simp [twoFields], .inl rfl, by simp [twoFields, kindRplWrite]⟩
  · exact ⟨by simp [twoFields], by simp [twoFields], .inl rfl, by simp [twoFields, kindRplWritem]⟩

end Sys2Proof.Machine
end

