-- ==== Sys2Proof/Laws/Registers.lean ====
section
/-! SUPPORT. The register index map (20_memory.md R62), read backwards: where each register and cell stands, and that no two
indices name one. -/

namespace Sys2Proof.Machine

theorem toNat_index {n : Nat} (h : n < 4096) : (BitVec.ofNat 12 n).toNat = n := by simp; omega

theorem namedRegs_index {n : Nat} {r : Reg} (h : namedRegs[n]? = some r) : r.index = n := by
  have hn : n < 17 := by
    by_contra hn
    rw [List.getElem?_eq_none (by simp [namedRegs]; omega)] at h
    cases h
  have : ∀ k < 17, (namedRegs[k]?.map Reg.index) = some k := by decide
  have := this n hn
  rw [h] at this
  simpa using this

theorem arrayCellAt_index {p : Params} {n : Nat} {r : Reg} (hn : 0x100 ≤ n) (h : arrayCellAt p n = some r) :
    r.index = n := by
  unfold arrayCellAt at h
  grind [Reg.index]

/-- An index names a register or cell that stands at that index. -/
theorem regAt_index {p : Params} {idx : RegIndex} {r : Reg} (h : regAt p idx = some r) : r.index = idx.toNat := by
  unfold regAt at h
  split at h
  · exact namedRegs_index h
  · exact arrayCellAt_index (by omega) h

/-- A cell the map names is a cell of its array, and an `FB` cell stands below `0x300`. -/
theorem regAt_inArray {p : Params} {idx : RegIndex} {r : Reg} (h : regAt p idx = some r) :
    (∀ i, r = .fb i → i < p.fbSize.toNat ∧ i < 0x200) ∧ (∀ i, r = .val i → i < Config.valCap) ∧
    (∀ i, r = .str i → i < Config.strCap) := by
  unfold regAt at h
  split at h
  · have hmem := List.mem_of_getElem? h
    have : ∀ r ∈ namedRegs, r.index < 0x100 := by decide
    have := this r hmem
    refine ⟨?_, ?_, ?_⟩ <;> (rintro i rfl; simp [Reg.index] at this; try omega)
  · unfold arrayCellAt at h
    grind

/-- No two indices name one register or cell. -/
theorem regAt_injective {p : Params} {i j : RegIndex} {r : Reg} (hi : regAt p i = some r) (hj : regAt p j = some r) :
    i = j :=
  BitVec.eq_of_toNat_eq ((regAt_index hi).symm.trans (regAt_index hj))

theorem regAt_fb {p : Params} {i : Nat} (hp : p.fbSizeInRange) (h : i < p.fbSize.toNat) :
    regAt p (BitVec.ofNat 12 (0x100 + i)) = some (.fb i) := by
  have := hp.2
  rw [regAt, toNat_index (by omega), if_neg (by omega), arrayCellAt, if_pos (by omega), if_pos (by omega), Nat.add_sub_cancel_left]

theorem regAt_val {p : Params} {i : Nat} (h : i < 127) : regAt p (BitVec.ofNat 12 (0x300 + i)) = some (.val i) := by
  rw [regAt, toNat_index (by omega), if_neg (by omega), arrayCellAt, if_neg (by omega), if_pos (by omega),
    if_pos (by simp [Config.valCap]; omega), Nat.add_sub_cancel_left]

theorem regAt_str {p : Params} {i : Nat} (h : i < 253) : regAt p (BitVec.ofNat 12 (0x400 + i)) = some (.str i) := by
  rw [regAt, toNat_index (by omega), if_neg (by omega), arrayCellAt, if_neg (by omega), if_neg (by omega),
    if_pos (by simp [Config.strCap]; omega), Nat.add_sub_cancel_left]

/-- Storing to one register or cell leaves the reading of every other as it was. -/
theorem readReg_storeReg_other (r q : Reg) (v : Word) (s : State) (h : q ≠ r) :
    readReg q (storeReg r v s) = readReg q s := by
  cases r <;> cases q <;>
    simp_all [readReg, storeReg, byteAt, List.getD_eq_getElem?_getD, eq_comm]

/-- A second store of the same value changes nothing more. -/
theorem storeReg_idem (r : Reg) (v : Word) (s : State) : storeReg r v (storeReg r v s) = storeReg r v s := by
  cases r <;> simp [storeReg]

/-- A write to any index but that of `CMD` stores to the register or cell the index names, or changes nothing when it names
none. -/
theorem regWrite_ne_cmd {s : State} {idx : RegIndex} (v : Word) (h : idx ≠ 0x000) :
    (∃ r, regAt s.params idx = some r ∧ regWrite idx v s = .next (storeReg r v s)) ∨
    (regAt s.params idx = none ∧ regWrite idx v s = .next s) := by
  unfold regWrite
  cases hr : regAt s.params idx with
  | none => exact .inr ⟨rfl, rfl⟩
  | some r =>
    refine .inl ⟨r, rfl, ?_⟩
    cases r <;> first | rfl | exact absurd (BitVec.eq_of_toNat_eq (regAt_index hr).symm) h

@[simp] theorem storeReg_params (r : Reg) (v : Word) (s : State) : (storeReg r v s).params = s.params := by
  cases r <;> rfl

@[simp] theorem storeReg_pending (r : Reg) (v : Word) (s : State) : (storeReg r v s).pending = s.pending := by
  cases r <;> rfl

@[simp] theorem storeReg_readLog (r : Reg) (v : Word) (s : State) : (storeReg r v s).readLog = s.readLog := by
  cases r <;> rfl

@[simp] theorem storeReg_resets (r : Reg) (v : Word) (s : State) : (storeReg r v s).resets = s.resets := by
  cases r <;> rfl

end Sys2Proof.Machine
end

