-- ==== Sys2Proof/Laws/Exec.lean ====
section
/-! SUPPORT. What a command, a host access and a step can do, said once: each answers a next state, and it is one of a few
shared updates of the state before. -/

namespace Sys2Proof.Machine

/-- The end of an encoder: a frame of a body of at most 261 bytes that starts with `DEV_ADDR`, or a usage error. -/
inductive EncoderEnd (s : State) : State → Prop where
  | frame (body : List Byte) (extra : List StatusBit) (haddr : byteAt body 0 = s.devAddr) (hmin : 2 ≤ body.length)
      (hmax : body.length ≤ 261) (hextra : extra = [] ∨ extra = [.clamped]) : EncoderEnd s (emit body extra s)
  | usage : EncoderEnd s (usageError s)

/-- The end of a decoder: a result whose lists fit, or the sentinel with a decoder error. -/
inductive DecoderEnd (s : State) : State → Prop where
  | result (d : Decoded) (hd : d.Fits) : DecoderEnd s (result d s)
  | sentinel (err : StatusBit) (herr : err ∈ decodeErrors) : DecoderEnd s (sentinel err s)

theorem execEncq_end (s : State) : ∃ t, execEncq s = .next t ∧ EncoderEnd s t :=
  ⟨_, rfl, .frame _ _ rfl (by simp) (by simp) (.inl rfl)⟩

theorem execEncrd_end (s : State) : ∃ t, execEncrd s = .next t ∧ EncoderEnd s t := by
  refine ⟨_, rfl, .frame _ _ rfl (by simp) (by simp) ?_⟩
  by_cases h : clamp s.arg1 = s.arg1 <;> simp [bitIf, h]

theorem execEncwr_end (s : State) : ∃ t, execEncwr s = .next t ∧ EncoderEnd s t :=
  ⟨_, rfl, .frame _ _ rfl (by simp) (by simp) (.inl rfl)⟩

theorem execEncwm_end (s : State) : ∃ t, execEncwm s = .next t ∧ EncoderEnd s t := by
  unfold execEncwm
  split
  · exact ⟨_, rfl, .usage⟩
  split
  · exact ⟨_, rfl, .usage⟩
  · have := values_length_le s
    exact ⟨_, rfl, .frame _ _ rfl (by simp [encwmBody]) (by simp_all [encwmBody, Config.valCap]; omega) (.inl rfl)⟩

theorem execEncrid_end (s : State) : ∃ t, execEncrid s = .next t ∧ EncoderEnd s t := by
  unfold execEncrid
  split
  · exact ⟨_, rfl, .usage⟩
  · have := string_length_le s
    exact ⟨_, rfl, .frame _ _ rfl (by simp [encridBody]) (by simp_all [encridBody, Config.strCap]; omega) (.inl rfl)⟩

theorem execEncrrd_end (s : State) : ∃ t, execEncrrd s = .next t ∧ EncoderEnd s t := by
  unfold execEncrrd
  split
  · exact ⟨_, rfl, .usage⟩
  · have := values_length_le s
    exact ⟨_, rfl, .frame _ _ rfl (by simp [encrrdBody]) (by simp_all [encrrdBody, Config.maxReadCount]; omega) (.inl rfl)⟩

theorem execEncrwr_end (s : State) : ∃ t, execEncrwr s = .next t ∧ EncoderEnd s t :=
  ⟨_, rfl, .frame _ _ rfl (by simp) (by simp) (.inl rfl)⟩

theorem execEncrwm_end (s : State) : ∃ t, execEncrwm s = .next t ∧ EncoderEnd s t :=
  ⟨_, rfl, .frame _ _ rfl (by simp) (by simp) (.inl rfl)⟩

theorem execDecreq_end (s : State) : ∃ t, execDecreq s = .next t ∧ DecoderEnd s t := by
  refine ⟨_, rfl, ?_⟩
  cases h : decodeRequest s with
  | ok d => exact .result d (decodeRequest_fits h)
  | error err => exact .sentinel err (decodeRequest_error h)

theorem execDecrpl_end (s : State) : ∃ t, execDecrpl s = .next t ∧ DecoderEnd s t := by
  refine ⟨_, rfl, ?_⟩
  cases h : decodeReply s with
  | ok d => exact .result d (decodeReply_fits h)
  | error err => exact .sentinel err (decodeReply_error h)

/-- The end of a command of the CRC unit: `CRC` and `STATUS`, one of three verdicts. -/
inductive CrcUnitEnd (s : State) : State → Prop where
  | mk (c : Word) (b : StatusBit) (hb : b ∈ [StatusBit.ok, .crcErr, .lenErr]) :
      CrcUnitEnd s { s with crc := c, status := statusWord [b] }

theorem execCrc16_end (s : State) : ∃ t, execCrc16 s = .next t ∧ CrcUnitEnd s t := by
  unfold execCrc16
  split
  · exact ⟨_, rfl, .mk _ .ok (by decide)⟩
  · exact ⟨_, rfl, .mk s.crc .lenErr (by decide)⟩

theorem execCrcchk_end (s : State) : ∃ t, execCrcchk s = .next t ∧ CrcUnitEnd s t := by
  unfold execCrcchk
  split
  · refine ⟨_, rfl, .mk _ _ ?_⟩
    unfold crcchkVerdict
    split
    · decide
    split <;> decide
  · exact ⟨_, rfl, .mk s.crc .lenErr (by decide)⟩

/-- The end of RXLEN: `XLEN` and `STATUS`, one of the five statuses of 42_decoder.md R222. -/
inductive RxlenEnd (s : State) : State → Prop where
  | mk (x : Word) (bits : List StatusBit)
      (hbits : bits ∈ [[StatusBit.ok], [.ok, .xfinal], [.ok, .xfinal, .xdone], [.fcErr, .xfinal, .xdone], [.lenErr]]) :
      RxlenEnd s { s with xlen := x, status := statusWord bits }

theorem execRxlen_end (s : State) : ∃ t, execRxlen s = .next t ∧ RxlenEnd s t := by
  unfold execRxlen
  split
  · exact ⟨_, rfl, .mk _ _ (by decide)⟩
  split
  · exact ⟨_, rfl, .mk _ _ (by decide)⟩
  · refine ⟨_, rfl, ?_⟩
    unfold predictLength
    split
    · rename_i x _
      by_cases hx : x ≤ s.fbLen
      · exact .mk _ _ (by simp [bitIf, hx])
      · exact .mk _ _ (by simp [bitIf, hx])
    · exact .mk _ _ (by decide)

/-- What any command can do (10_state.md R39, the columns "writes"). -/
inductive CommandEnd (s t : State) : Prop where
  | crcUnit (h : CrcUnitEnd s t)
  | encoder (h : EncoderEnd s t)
  | decoder (h : DecoderEnd s t)
  | rxlen (h : RxlenEnd s t)

/-- Every command answers, with one of the ends above. -/
theorem exec_end (i : Instr) (s : State) : ∃ t, exec i s = .next t ∧ CommandEnd s t := by
  cases i with
  | crc16 => exact (execCrc16_end s).imp fun _ h => ⟨h.1, .crcUnit h.2⟩
  | crcchk => exact (execCrcchk_end s).imp fun _ h => ⟨h.1, .crcUnit h.2⟩
  | encq => exact (execEncq_end s).imp fun _ h => ⟨h.1, .encoder h.2⟩
  | encrd => exact (execEncrd_end s).imp fun _ h => ⟨h.1, .encoder h.2⟩
  | encwr => exact (execEncwr_end s).imp fun _ h => ⟨h.1, .encoder h.2⟩
  | encwm => exact (execEncwm_end s).imp fun _ h => ⟨h.1, .encoder h.2⟩
  | encrid => exact (execEncrid_end s).imp fun _ h => ⟨h.1, .encoder h.2⟩
  | encrrd => exact (execEncrrd_end s).imp fun _ h => ⟨h.1, .encoder h.2⟩
  | encrwr => exact (execEncrwr_end s).imp fun _ h => ⟨h.1, .encoder h.2⟩
  | encrwm => exact (execEncrwm_end s).imp fun _ h => ⟨h.1, .encoder h.2⟩
  | decreq => exact (execDecreq_end s).imp fun _ h => ⟨h.1, .decoder h.2⟩
  | decrpl => exact (execDecrpl_end s).imp fun _ h => ⟨h.1, .decoder h.2⟩
  | rxlen => exact (execRxlen_end s).imp fun _ h => ⟨h.1, .rxlen h.2⟩

/-- What one host access can do: return a value, store to a register, change nothing, run a command or the illegal-command
action, or reset. -/
inductive AccessEnd (s t : State) : Prop where
  | returned (v : Word) (h : t = returnToHost v s)
  | stored (r : Reg) (v : Word) (h : t = storeReg r v s)
  | ignored (h : t = s)
  | command (h : CommandEnd s t)
  | illegal (h : t = illegalCommand s)
  | reset (h : t = hostReset s)

theorem regWrite_end (idx : RegIndex) (v : Word) (s : State) : ∃ t, regWrite idx v s = .next t ∧ AccessEnd s t := by
  unfold regWrite
  split
  · unfold runCommand
    split
    · exact (exec_end _ s).imp fun _ h => ⟨h.1, .command h.2⟩
    · exact ⟨_, rfl, .illegal rfl⟩
  · exact ⟨_, rfl, .stored _ v rfl⟩
  · exact ⟨_, rfl, .ignored rfl⟩

/-- Every host access answers, with one of the ends above. -/
theorem serve_end (a : HostAccess) (s : State) : ∃ t, serve a s = .next t ∧ AccessEnd s t := by
  cases a with
  | read idx => exact ⟨_, rfl, .returned _ rfl⟩
  | write idx v => exact regWrite_end idx v s
  | reset => exact ⟨_, rfl, .reset rfl⟩

/-- No command touches the build parameters, the reset count, or the host's side. -/
theorem command_keeps {s t : State} (h : CommandEnd s t) :
    t.params = s.params ∧ t.resets = s.resets ∧ t.pending = s.pending ∧ t.readLog = s.readLog := by
  cases h with
  | crcUnit h => cases h; exact ⟨rfl, rfl, rfl, rfl⟩
  | encoder h => cases h <;> exact ⟨rfl, rfl, rfl, rfl⟩
  | decoder h => cases h <;> exact ⟨rfl, rfl, rfl, rfl⟩
  | rxlen h => cases h; exact ⟨rfl, rfl, rfl, rfl⟩

/-- No host access touches the build parameters or the accesses that come after it. -/
theorem access_keeps {s t : State} (h : AccessEnd s t) : t.params = s.params ∧ t.pending = s.pending := by
  cases h with
  | returned v h => exact h ▸ ⟨rfl, rfl⟩
  | stored r v h => subst h; exact ⟨storeReg_params r v s, storeReg_pending r v s⟩
  | ignored h => exact h ▸ ⟨rfl, rfl⟩
  | command h => exact ⟨(command_keeps h).1, (command_keeps h).2.2.1⟩
  | illegal h => exact h ▸ ⟨rfl, rfl⟩
  | reset h => exact h ▸ ⟨rfl, rfl⟩

/-- With no access queued, a step changes nothing. -/
theorem step_idle {s : State} (h : s.pending = []) : step s = .next s := by simp [step, serveNext, h]

/-- With an access queued, a step serves it. -/
theorem step_serve {s : State} {a : HostAccess} {rest : List HostAccess} (h : s.pending = a :: rest) :
    step s = serve a { s with pending := rest } := by simp [step, serveNext, h]

/-- A write to `CMD` runs the command word of bits 7:0. -/
theorem regWrite_cmd (v : Word) (s : State) : regWrite 0x000 v s = runCommand (lo8 v) s := rfl

end Sys2Proof.Machine
end

