-- ==== Sys2Proof/Laws/Memory.lean ====
section
/-! SUPPORT. Every operation that stores to an array keeps the arrays whole (`Memory.wf`), and so does every command and every
host access. -/

namespace Sys2Proof.Machine

theorem afterReset_wf (p : Params) (k : Nat) : Memory.wf (State.afterReset p k) := by
  simp [Memory.wf, State.afterReset]

theorem reset_wf : Memory.wf State.reset := afterReset_wf _ _

theorem hostReset_wf (s : State) : Memory.wf (hostReset s) := afterReset_wf _ _

theorem emit_wf {s : State} (body : List Byte) (extra : List StatusBit) (h : Memory.wf s)
    (hlen : body.length + 2 ≤ s.params.fbSize.toNat) : Memory.wf (emit body extra s) :=
  ⟨by rw [emit_fb, storeAtFront_length _ _ (by simp [h.1, hlen])]; exact h.1, h.2⟩

theorem usageError_wf {s : State} (h : Memory.wf s) : Memory.wf (usageError s) := h

theorem result_wf {s : State} {d : Decoded} (h : Memory.wf s) (hd : d.Fits) : Memory.wf (result d s) :=
  ⟨h.1, by rw [result_val, storeAtFront_length _ _ (by rw [h.2.1]; exact hd.vals)]; exact h.2.1,
    by rw [result_str, storeAtFront_length _ _ (by rw [h.2.2]; exact hd.str)]; exact h.2.2⟩

theorem sentinel_wf {s : State} (err : StatusBit) (h : Memory.wf s) : Memory.wf (sentinel err s) := h

theorem storeReg_wf {s : State} (r : Reg) (v : Word) (h : Memory.wf s) : Memory.wf (storeReg r v s) := by
  cases r <;> simp_all [storeReg, Memory.wf]

theorem command_wf {s t : State} (h : CommandEnd s t) (hm : Memory.wf s) (hp : s.params.fbSizeInRange) : Memory.wf t := by
  cases h with
  | crcUnit h => cases h; exact hm
  | encoder h =>
    cases h with
    | frame body extra _ _ hmax _ => exact emit_wf body extra hm (by have := hp.1; omega)
    | usage => exact hm
  | decoder h =>
    cases h with
    | result d hd => exact result_wf hm hd
    | sentinel err _ => exact hm
  | rxlen h => cases h; exact hm

theorem access_wf {s t : State} (h : AccessEnd s t) (hm : Memory.wf s) (hp : s.params.fbSizeInRange) : Memory.wf t := by
  cases h with
  | returned v h => exact h ▸ hm
  | stored r v h => exact h ▸ storeReg_wf r v hm
  | ignored h => exact h ▸ hm
  | command h => exact command_wf h hm hp
  | illegal h => exact h ▸ hm
  | reset h => exact h ▸ hostReset_wf s

end Sys2Proof.Machine
end

