-- ==== Sys2Proof/Laws/PerInstr.lean ====
section
/-! SUPPORT. The family `CommandWord`, one lemma per command: a well-formed command's word decodes to it again, and its two fields
are the family and the operation of 30_encoding.md R80. -/

namespace Sys2Proof.Laws.CommandWord

/-- What holds of a command as syntax. -/
def Statement (i : Instr) : Prop :=
  i.wf = true ∧ decode (encode i) = .ok i ∧ familyField (encode i) = familyOf i ∧ opField (encode i) = opOf i

theorem crc16 : Statement .crc16 := ⟨rfl, rfl, rfl, rfl⟩
theorem crcchk : Statement .crcchk := ⟨rfl, rfl, rfl, rfl⟩
theorem encq : Statement .encq := ⟨rfl, rfl, rfl, rfl⟩
theorem encrd : Statement .encrd := ⟨rfl, rfl, rfl, rfl⟩
theorem encwr : Statement .encwr := ⟨rfl, rfl, rfl, rfl⟩
theorem encwm : Statement .encwm := ⟨rfl, rfl, rfl, rfl⟩
theorem encrid : Statement .encrid := ⟨rfl, rfl, rfl, rfl⟩
theorem encrrd : Statement .encrrd := ⟨rfl, rfl, rfl, rfl⟩
theorem encrwr : Statement .encrwr := ⟨rfl, rfl, rfl, rfl⟩
theorem encrwm : Statement .encrwm := ⟨rfl, rfl, rfl, rfl⟩
theorem decreq : Statement .decreq := ⟨rfl, rfl, rfl, rfl⟩
theorem decrpl : Statement .decrpl := ⟨rfl, rfl, rfl, rfl⟩
theorem rxlen : Statement .rxlen := ⟨rfl, rfl, rfl, rfl⟩

end Sys2Proof.Laws.CommandWord
end

