-- ==== Sys2Proof/Machine/HostProgram.lean ====
section
/-! DEFINITION. The host program notation (30_encoding.md R97 to R99) and the accesses of the host's receive loop (42_decoder.md
R224). A line is one host access; a program is the list of its accesses in order, which a state holds as `pending`. What a host
decides between its accesses is host software (00_scope.md R5). -/

namespace Sys2Proof.Machine.Asm

/-- `wr REG, v`, and `wr FB[i], v` and its like (R97). -/
def wr (r : Reg) (v : Word) : HostAccess := .write (BitVec.ofNat 12 r.index) v

/-- `rd REG` (R97). -/
def rd (r : Reg) : HostAccess := .read (BitVec.ofNat 12 r.index)

/-- `cmd MNEMONIC` (R97). -/
def cmd (i : Instr) : HostAccess := commandAccess (encode i)

/-- Bytes written to `FB` from cell `n` on. -/
def fbCells (n : Nat) (bytes : List Byte) : List HostAccess :=
  (bytes.zipIdx n).map fun bi => wr (.fb bi.2) (zext16 bi.1)

/-- `fb b0, b1, ...` (R98). An empty list writes only the length. -/
def fb (bytes : List Byte) : List HostAccess := fbCells 0 bytes ++ [wr .fbLen (BitVec.ofNat 16 bytes.length)]

/-- `val v0, v1, ...` (R98). -/
def val (vals : List Word) : List HostAccess :=
  (vals.zipIdx.map fun vi => wr (.val vi.2) vi.1) ++ [wr .valN (BitVec.ofNat 16 vals.length)]

/-- `str "text"`, the text given as its bytes (R98). -/
def str (text : List Byte) : List HostAccess :=
  (text.zipIdx.map fun bi => wr (.str bi.2) (zext16 bi.1)) ++ [wr .strLen (BitVec.ofNat 16 text.length)]

/-- The client's `query` (R99). -/
def query : List HostAccess := [cmd .encq]

/-- The client's `read(start, count)` (R99). -/
def read (start count : Word) : List HostAccess := [wr .arg0 start, wr .arg1 count, cmd .encrd]

/-- The client's `write(addr, value)` (R99). -/
def write (addr value : Word) : List HostAccess := [wr .arg0 addr, wr .arg1 value, cmd .encwr]

/-- The client's `writem(addr, count, values...)` (R99). -/
def writem (addr count : Word) (values : List Word) : List HostAccess :=
  [wr .arg0 addr, wr .arg1 count] ++ val values ++ [cmd .encwm]

/-- "Each is preceded by `wr DEV_ADDR, <target device address>` when the address is not already set" (R99). -/
def toDevice (addr : Byte) (program : List HostAccess) : List HostAccess := wr .devAddr (zext16 addr) :: program

/-- One turn of the receive loop: the bytes of one read appended at `FB[n..)`, the new length, and RXLEN
(42_decoder.md R224). -/
def receiveRead (n : Nat) (bytes : List Byte) : List HostAccess :=
  fbCells n bytes ++ [wr .fbLen (BitVec.ofNat 16 (n + bytes.length)), cmd .rxlen, rd .status]

/-- Whether the receive loop stops reading on this `STATUS`, and hands the buffer to DECRPL (42_decoder.md R224). -/
def receiveStops (status : Word) : Bool := statusHas status .xfinal && statusHas status .xdone

end Sys2Proof.Machine.Asm

namespace Sys2Proof.Machine

/-- The host issues the accesses of a program, first line first (30_encoding.md R97). -/
def State.withProgram (s : State) (program : List HostAccess) : State := { s with pending := program }

end Sys2Proof.Machine
end

