-- ==== Sys2Proof/Tests/Slice0.lean ====
section
/-! SUPPORT. The model's own tests. Every expected value is from the spec: the command words are written out from the two fields
of 30_encoding.md R80, the frames, CRCs and status values are those of 95_test_vectors.md, and the rest is worked by hand from
the rule named. The `witness_` theorems show, for each statement with hypotheses, concrete states and operands that meet them
together, at the boundary values of their ranges. -/

namespace Sys2Proof.Tests

-- The theorems are checked one after another: checked all at once, their threads would not fit in the memory limit.
set_option Elab.async false

open Sys2Proof.Machine

/-! ### Helpers -/

/-- A block after reset, its array cells 0. -/
def blank : State :=
  { State.reset with fb := List.replicate 263 0, val := List.replicate 127 0, str := List.replicate 253 0 }

/-- `fb ...` of the assembly notation: the bytes in the buffer, `FB_LEN` their number (30_encoding.md R98). -/
def holding (bytes : List Byte) : State :=
  { blank with fb := bytes ++ List.replicate (263 - bytes.length) 0, fbLen := BitVec.ofNat 16 bytes.length }

/-- `ARG0`, `ARG1` and `val ...` set by the host. -/
def operands (arg0 arg1 : Word) (vals : List Word) : State :=
  { blank with
    arg0 := arg0, arg1 := arg1, val := vals ++ List.replicate (127 - vals.length) 0, valN := BitVec.ofNat 8 vals.length }

/-- `ARG0`, `ARG1` and `str ...` set by the host. -/
def stringOperands (arg0 arg1 : Word) (str : List Byte) : State :=
  { blank with
    arg0 := arg0, arg1 := arg1, str := str ++ List.replicate (253 - str.length) 0, strLen := BitVec.ofNat 8 str.length }

/-- What a look at the next state shows, if there is one. -/
def look {α : Type} (o : Host.Outcome State Fault Refusal) (see : State → α) : Option α :=
  match o with
  | .next t => some (see t)
  | .fault _ => none
  | .refused _ => none

/-- `STATUS`, `CRC` and the frame. -/
def seeFrame (t : State) : Word × Word × List Byte := (t.status, t.crc, frame t)

/-- `STATUS`, `RES_KIND`, `RES_ADDR`, `RES_FC`, `RES_F0` to `RES_F2`, `RES_BC`. -/
def seeResult (t : State) : Word × Byte × Byte × Byte × Word × Word × Word × Byte :=
  (t.status, t.resKind, t.resAddr, t.resFc, t.resF0, t.resF1, t.resF2, t.resBc)

/-- `XLEN` and `STATUS`. -/
def seeLength (t : State) : Word × Word := (t.xlen, t.status)

/-! ### Well-formedness: each check refuses an ill-formed term -/

theorem test_wf_spec_defaults : Config.specDefaults.wf := by decide

theorem test_wf_refuses_equal_codes :
    ¬ ({ Config.specDefaults with fcQuery := 0x03 } : Params).wf ∧ ¬ ({ Config.specDefaults with fcQuery := 0x06 } : Params).wf ∧
    ¬ ({ Config.specDefaults with fcQuery := 0x10 } : Params).wf ∧ ¬ ({ Config.specDefaults with fcRead := 0x06 } : Params).wf ∧
    ¬ ({ Config.specDefaults with fcRead := 0x10 } : Params).wf ∧ ¬ ({ Config.specDefaults with fcWrite := 0x10 } : Params).wf := by
  refine ⟨?_, ?_, ?_, ?_, ?_, ?_⟩ <;> decide

theorem test_wf_refuses_min_reply :
    ¬ ({ Config.specDefaults with minReply := 2 } : Params).wf ∧ ¬ ({ Config.specDefaults with minReply := 264 } : Params).wf := by
  decide

theorem test_wf_refuses_fb_size :
    ¬ ({ Config.specDefaults with fbSize := 262 } : Params).wf ∧ ¬ ({ Config.specDefaults with fbSize := 513 } : Params).wf := by
  decide

/-- The bounds themselves are legal. -/
theorem test_wf_accepts_bounds :
    ({ Config.specDefaults with minReply := 3, fbSize := 512 } : Params).wf ∧
    ({ Config.specDefaults with minReply := 263 } : Params).wf := by decide

/-! ### Decoding: family in bits 7:6, operation in bits 5:0 -/

theorem test_decode_crc16 : decode 0b00000001#8 = .ok .crc16 := rfl
theorem test_decode_crcchk : decode 0b00000010#8 = .ok .crcchk := rfl
theorem test_decode_encq : decode 0b01000001#8 = .ok .encq := rfl
theorem test_decode_encrd : decode 0b01000010#8 = .ok .encrd := rfl
theorem test_decode_encwr : decode 0b01000011#8 = .ok .encwr := rfl
theorem test_decode_encwm : decode 0b01000100#8 = .ok .encwm := rfl
theorem test_decode_encrid : decode 0b10000001#8 = .ok .encrid := rfl
theorem test_decode_encrrd : decode 0b10000010#8 = .ok .encrrd := rfl
theorem test_decode_encrwr : decode 0b10000011#8 = .ok .encrwr := rfl
theorem test_decode_encrwm : decode 0b10000100#8 = .ok .encrwm := rfl
theorem test_decode_decreq : decode 0b11000001#8 = .ok .decreq := rfl
theorem test_decode_decrpl : decode 0b11000010#8 = .ok .decrpl := rfl
theorem test_decode_rxlen : decode 0b11000011#8 = .ok .rxlen := rfl

/-- The words beside the map name no command (30_encoding.md R82). -/
theorem test_decode_refuses :
    ∀ w ∈ [0x00#8, 0x03, 0x40, 0x45, 0x80, 0x85, 0xC0, 0xC4, 0xFF], decode w = .error (.illegalCommand w) := by decide

/-- Bits above a row's 8 are not part of the word. -/
theorem test_decodeTableWord : decodeTableWord 8 0x42 = some .encrd ∧ decodeTableWord 8 0x142 = some .encrd ∧
    decodeTableWord 8 0x45 = none := by decide

/-! ### The step -/

/-- 95_test_vectors.md 2.2, as the first command after reset. -/
theorem test_step_runs_the_fetched_word :
    look (step (State.reset.withFetchWord 8 0x41)) seeFrame = some (0x0001, 0x2CC0, [0x01, 0x11, 0xC0, 0x2C]) := by
  decide +kernel

/-- 95_test_vectors.md 2.6: `RegWrite(0x000, 0x142)` runs `ENCRD`. -/
theorem test_step_truncates_the_command_word :
    look (step { operands 0 3 [] with pending := [.write 0x000 0x142] }) seeFrame
      = some (0x0001, 0xCB05, [0x01, 0x03, 0x00, 0x00, 0x00, 0x03, 0x05, 0xCB]) := by decide +kernel

/-- 60_exceptions.md R246. -/
theorem test_step_illegal_command :
    look (step { holding [0x01] with pending := [.write 0x000 0xC4] }) (fun t => (t.status, t.crc, frame t, t.pending))
      = some (0x0080, 0x0000, [0x01], []) := by decide +kernel

/-- 10_state.md R40: `Reset()` puts back what it must, and a draw is numbered by its reset. -/
theorem test_step_reset :
    look (step { holding [0x01] with devAddr := 0x07, pending := [.reset, .read 0x002] })
        (fun t => (t.devAddr, t.fbLen, t.resets, t.pending)) = some (0x01, 0, 1, [.read 0x002]) := by decide +kernel

/-! ### Host accesses (95_test_vectors.md 2.6) -/

theorem test_write_read_only : look (regWrite 0x008 0x1234 blank) (·.crc) = some 0 := by decide +kernel
theorem test_write_dev_addr : look (regWrite 0x002 0x01F7 blank) (·.devAddr) = some 0xF7 := by decide +kernel
theorem test_write_val_n : look (regWrite 0x006 0x0180 blank) (·.valN) = some 0x80 := by decide +kernel
theorem test_write_reserved : look (regWrite (0x100 + 263) 5 blank) (·.fb) = some blank.fb := by decide +kernel
theorem test_read_reserved : look (serve (.read 0x011) blank) (·.readLog) = some [0] := by decide +kernel
theorem test_read_cmd : regRead 0x000 { blank with status := 0x0101 } = 0 := by decide +kernel
theorem test_read_cells : regRead 0x101 (holding [0x01, 0x11]) = 0x0011 ∧ regRead 0x300 (operands 0 0 [0xABCD]) = 0xABCD ∧
    regRead 0x401 (stringOperands 0 0 [0x56, 0x54]) = 0x0054 := by decide +kernel

/-! ### The host program notation (95_test_vectors.md section 4) -/

/-- `fb 01,03,06,00` and `val 0x000A, 0x0102` as section 0 and program P3 expand them. -/
theorem test_asm_expansions :
    Asm.fb [0x01, 0x03, 0x06, 0x00] =
      [.write 0x100 0x01, .write 0x101 0x03, .write 0x102 0x06, .write 0x103 0x00, .write 0x005 4] ∧
    Asm.val [0x000A, 0x0102] = [.write 0x300 0x000A, .write 0x301 0x0102, .write 0x006 2] ∧
    Asm.str [0x56, 0x54] = [.write 0x400 0x56, .write 0x401 0x54, .write 0x007 2] ∧
    Asm.read 0 3 = [.write 0x003 0, .write 0x004 3, .write 0x000 0x42] := by decide +kernel

/-- The first and the second read of program P1: 4 bytes, then 7 at `FB[4]`. -/
theorem test_asm_receive :
    (Asm.receiveRead 4 [0x00, 0x00, 0x01, 0x00, 0x02, 0xF1, 0x74]).drop 6 =
      [.write 0x10A 0x74, .write 0x005 11, .write 0x000 0xC3, .read 0x001] ∧
    Asm.receiveStops 0x0001 = false ∧ Asm.receiveStops 0x0201 = false ∧ Asm.receiveStops 0x0601 = true := by decide +kernel

/-! ### The CRC unit (95_test_vectors.md 2.1) -/

theorem test_crc16_check_value :
    look (exec .crc16 (holding [0x31, 0x32, 0x33, 0x34, 0x35, 0x36, 0x37, 0x38, 0x39])) (fun t => (t.status, t.crc))
      = some (0x0001, 0x4B37) := by decide +kernel
theorem test_crc16_past_the_buffer :
    look (exec .crc16 { blank with fbLen := 264 }) (fun t => (t.status, t.crc)) = some (0x0004, 0x0000) := by decide +kernel
theorem test_crcchk_ok :
    look (exec .crcchk (holding [0x01, 0x06, 0x00, 0x01, 0x00, 0x03, 0x98, 0x0B])) (fun t => (t.status, t.crc))
      = some (0x0001, 0x0000) := by decide +kernel
theorem test_crcchk_swapped :
    look (exec .crcchk (holding [0x01, 0x06, 0x00, 0x01, 0x00, 0x03, 0x0B, 0x98])) (fun t => (t.status, t.crc))
      = some (0x0002, 0x9D2C) := by decide +kernel

/-! ### The encoders (95_test_vectors.md 2.2) -/

theorem test_encq_foreign :
    look (exec .encq { blank with devAddr := 0xF7 }) (frame ·) = some [0xF7, 0x11, 0x87, 0x8C] := by decide +kernel
theorem test_encrd_bound :
    look (exec .encrd (operands 0xFFFF 125 [])) (fun t => (t.status, frame t))
      = some (0x0001, [0x01, 0x03, 0xFF, 0xFF, 0x00, 0x7D, 0x85, 0xCF]) := by decide +kernel
theorem test_encrd_clamped :
    look (exec .encrd (operands 0x0010 200 [])) (fun t => (t.status, frame t))
      = some (0x0101, [0x01, 0x03, 0x00, 0x10, 0x00, 0x01, 0x85, 0xCF]) := by decide +kernel
theorem test_encwr :
    look (exec .encwr (operands 0xFFFF 0x8000 [])) (frame ·) = some [0x01, 0x06, 0xFF, 0xFF, 0x80, 0x00, 0xE8, 0x2E] := by
  decide +kernel
theorem test_encwm :
    look (exec .encwm (operands 1 2 [0x000A, 0x0102])) (frame ·)
      = some [0x01, 0x10, 0x00, 0x01, 0x00, 0x02, 0x04, 0x00, 0x0A, 0x01, 0x02, 0x92, 0x30] := by decide +kernel
/-- The longest frame: 127 values, 263 bytes. -/
theorem test_encwm_longest :
    look (exec .encwm (operands 0 127 ((List.range 127).map (BitVec.ofNat 16))))
        (fun t => (t.status, t.fbLen, (frame t).length, (frame t).take 9)) =
      some (0x0001, 263, 263, [0x01, 0x10, 0x00, 0x00, 0x00, 0x7F, 0xFE, 0x00, 0x00]) := by decide +kernel
/-- Only bits 7:0 of the arguments are read. -/
theorem test_encrid :
    look (exec .encrid (stringOperands 0x012A 0x01FF [0x56, 0x54])) (frame ·)
      = some [0x01, 0x11, 0x04, 0x2A, 0xFF, 0x56, 0x54, 0xFF, 0x36] := by decide +kernel
theorem test_encrid_too_long :
    look (exec .encrid { blank with strLen := 254, fbLen := 8, crc := 0xCB05 }) seeFrame = some (0x0040, 0xCB05, []) := by
  decide +kernel
theorem test_encrrd :
    look (exec .encrrd (operands 0 0 [0, 1, 2])) (frame ·)
      = some [0x01, 0x03, 0x06, 0x00, 0x00, 0x00, 0x01, 0x00, 0x02, 0xF1, 0x74] := by decide +kernel
theorem test_encrrd_too_many : look (exec .encrrd { blank with valN := 126 }) (·.status) = some 0x0040 := by decide +kernel
theorem test_encrwr :
    look (exec .encrwr (operands 0xFFFF 0xFFFF [])) (frame ·) = some [0x01, 0x06, 0xFF, 0xFF, 0xFF, 0xFF, 0x88, 0x5E] := by
  decide +kernel
theorem test_encrwm :
    look (exec .encrwm (operands 0x0200 2 [])) (frame ·) = some [0x01, 0x10, 0x02, 0x00, 0x00, 0x02, 0x40, 0x70] := by
  decide +kernel

/-! ### The decoders (95_test_vectors.md 2.3, 2.4) -/

/-- A wrong address and a bad CRC: the address is checked first. -/
theorem test_decreq_order :
    look (exec .decreq { holding [0x01, 0x03, 0x00, 0x00, 0x00, 0x03, 0x05, 0x00] with devAddr := 0x02 }) seeResult
      = some (0x0020, 0, 0, 0, 0, 0, 0, 0) := by decide +kernel
theorem test_decreq_clamped :
    look (exec .decreq (holding [0x01, 0x03, 0x00, 0x10, 0x00, 0x00, 0x44, 0x0F])) seeResult
      = some (0x0101, 2, 0x01, 0x03, 0x0010, 0x0001, 0x0000, 0) := by decide +kernel
theorem test_decreq_write_multiple :
    look (exec .decreq (holding [0x01, 0x10, 0x00, 0x01, 0x00, 0x02, 0x04, 0x00, 0x0A, 0x01, 0x02, 0x92, 0x30]))
        (fun t => (seeResult t, values t)) = some ((0x0001, 4, 0x01, 0x10, 1, 2, 0, 4), [0x000A, 0x0102]) := by decide +kernel
/-- The byte count is not twice the count. -/
theorem test_decreq_format :
    look (exec .decreq (holding [0x01, 0x10, 0x00, 0x01, 0x00, 0x03, 0x04, 0x00, 0x0A, 0x01, 0x02, 0x93, 0xE1])) (·.status)
      = some 0x0010 := by decide +kernel
theorem test_decrpl_identification :
    look (exec .decrpl (holding [0x01, 0x11, 0x04, 0x2A, 0xFF, 0x56, 0x54, 0xFF, 0x36])) (fun t => (seeResult t, string t))
      = some ((0x0001, 5, 0x01, 0x11, 0x2A, 0xFF, 0, 4), [0x56, 0x54]) := by decide +kernel
/-- A read reply with two bytes after it. -/
theorem test_decrpl_read :
    look (exec .decrpl (holding [0x01, 0x03, 0x06, 0x00, 0x00, 0x00, 0x01, 0x00, 0x02, 0xF1, 0x74, 0xAA, 0xBB]))
        (fun t => (seeResult t, values t)) = some ((0x0001, 6, 1, 3, 0, 0, 0, 6), [0, 1, 2]) := by decide +kernel

/-! ### The reply length (95_test_vectors.md 2.5) -/

theorem test_rxlen_write_multiple :
    look (exec .rxlen (holding [0x01, 0x10, 0xFF, 0x00, 0x00, 0x02, 0x71, 0xDC])) seeLength = some (262, 0x0201) ∧
    look (exec .rxlen { holding [0x01, 0x10, 0xFF, 0x00, 0x00, 0x02, 0x71, 0xDC] with
      params := { Config.specDefaults with xlenWritemRule := .layout } }) seeLength = some (8, 0x0601) := by decide +kernel
theorem test_rxlen_unsupported :
    look (exec .rxlen (holding [0x01, 0x83, 0x02, 0xC0, 0xF1])) seeLength = some (5, 0x0608) ∧
    look (exec .rxlen (holding [0x01, 0x83, 0x02, 0xC0])) seeLength = some (5, 0x0001) := by decide +kernel

/-! ### Witnesses: the hypotheses of the statements can be met -/

theorem witness_command_answers (i : Instr) (s : State) : ∃ t, exec i s = .next t := (exec_end i s).imp fun _ h => h.1

/-- The frames of 95_test_vectors.md that the witnesses use. -/
def queryFrame : List Byte := [0x01, 0x11, 0xC0, 0x2C]
def readFrame : List Byte := [0x01, 0x03, 0x00, 0x00, 0x00, 0x7D, 0x85, 0xEB]
def clampedFrame : List Byte := [0x01, 0x03, 0x00, 0x00, 0x00, 0x7E, 0xC5, 0xEA]
def zeroCountFrame : List Byte := [0x01, 0x03, 0x00, 0x10, 0x00, 0x00, 0x44, 0x0F]
def oneCountFrame : List Byte := [0x01, 0x03, 0x00, 0x01, 0x00, 0x01, 0xD5, 0xCA]
def writeFrame : List Byte := [0x01, 0x06, 0x00, 0x01, 0x00, 0x03, 0x98, 0x0B]
def emptyWritemFrame : List Byte := [0x01, 0x10, 0x00, 0x00, 0x00, 0x00, 0x00, 0x09, 0x50]
def badWritemFrame : List Byte := [0x01, 0x10, 0x00, 0x01, 0x00, 0x03, 0x04, 0x00, 0x0A, 0x01, 0x02, 0x93, 0xE1]
def idFrame : List Byte := [0x01, 0x11, 0x02, 0x01, 0x00, 0xBC, 0xAC]
def badIdFrame : List Byte := [0x01, 0x11, 0x01, 0x07, 0x11, 0x8F]
def emptyReadReply : List Byte := [0x01, 0x03, 0x00, 0x20, 0xF0]
def oddReadReply : List Byte := [0x01, 0x03, 0x03, 0x00, 0x01, 0x02, 0xC5, 0xDF]
def writemReply : List Byte := [0x01, 0x10, 0x00, 0x01, 0x00, 0x02, 0x10, 0x08]

theorem witness_blank_sound : Sound blank := ⟨by decide, by decide +kernel, .inl rfl, by decide⟩

theorem witness_IllegalCommandOnlySetsCmdErr :
    ∀ w ∈ [0x00#8, 0x03, 0x40, 0x45, 0x80, 0x85, 0xC0, 0xC4, 0xFF], (∀ i, encode i ≠ w) ∧ (zext16 w).extractLsb' 0 8 = w := by
  intro w hw
  refine ⟨fun i => ?_, ?_⟩
  · revert w; cases i <;> decide
  · revert w; decide

theorem witness_StepRunsTheDecodedCommand :
    (∃ s : State, s.pending = .write 0x000 0xFF42 :: [.reset] ∧ decode ((0xFF42 : Word).extractLsb' 0 8) = .ok .encrd) ∧
    (∃ s : State, s.pending = .write 0x000 0x00C4 :: [] ∧ ∀ i, decode ((0x00C4 : Word).extractLsb' 0 8) ≠ .ok i) :=
  ⟨⟨{ blank with pending := [.write 0x000 0xFF42, .reset] }, rfl, rfl⟩,
    ⟨{ blank with pending := [.write 0x000 0x00C4] }, rfl, fun i => by cases i <;> decide⟩⟩

theorem witness_AccessesAreServedInOrder :
    blank.pending = [] ∧ ({ blank with pending := [.read 0x005, .reset] } : State).pending = .read 0x005 :: [.reset] :=
  ⟨rfl, rfl⟩

theorem witness_ResetGivesTheResetValues :
    ({ holding queryFrame with pending := [.reset] } : State).pending = .reset :: [] := rfl

theorem witness_ReservedIndicesReadZeroAndIgnoreWrites :
    (∀ n ∈ [0x011, 0x0FF, 0x207, 0x2FF, 0x37F, 0x3FF, 0x4FD, 0xFFF],
      Claims.Reserved blank.params (BitVec.ofNat 12 n).toNat) ∧
    (∀ n ∈ [0x010, 0x100, 0x206, 0x300, 0x37E, 0x400, 0x4FC],
      ¬ Claims.Reserved blank.params (BitVec.ofNat 12 n).toNat) := by
  unfold Claims.Reserved; decide

theorem witness_ReadOnlyRegistersIgnoreWrites :
    ∀ n ∈ [0x001, 0x008, 0x010], BitVec.ofNat 12 n = 0x001 ∨
      (0x008 ≤ (BitVec.ofNat 12 n).toNat ∧ (BitVec.ofNat 12 n).toNat ≤ 0x010) := by decide

theorem witness_fbSizeInRange :
    Config.specDefaults.fbSizeInRange ∧ ({ Config.specDefaults with fbSize := 512 } : Params).fbSizeInRange := by decide

theorem witness_AccessesHaveNoOtherEffect :
    (0x0FF#12 ≠ 0x000 ∧ ∃ t, regWrite 0x0FF 7 blank = .next t) ∧ (0x4FC#12 ≠ 0x000 ∧ ∃ t, regWrite 0x4FC 7 blank = .next t) :=
  ⟨⟨by decide, (regWrite_end _ _ _).imp fun _ h => h.1⟩, ⟨by decide, (regWrite_end _ _ _).imp fun _ h => h.1⟩⟩

/-- Both clauses, at the ends of their ranges; no index falls under both. -/
theorem witness_WrittenValuesReadBack :
    blank.params.wf ∧ Memory.wf blank ∧
    (∀ n ∈ [0x002, 0x006, 0x007, 0x100, 0x206, 0x400, 0x4FC], n = 0x002 ∨ n = 0x006 ∨ n = 0x007 ∨
      (0x100 ≤ n ∧ n < 0x100 + blank.params.fbSize.toNat) ∨ (0x400 ≤ n ∧ n < 0x400 + 253)) ∧
    (∀ n ∈ [0x003, 0x004, 0x005, 0x300, 0x37E], n = 0x003 ∨ n = 0x004 ∨ n = 0x005 ∨ (0x300 ≤ n ∧ n < 0x300 + 127)) :=
  ⟨witness_blank_sound.params, witness_blank_sound.memory, by decide, by decide⟩

theorem witness_ParametersNeverChange :
    ∃ t, step { holding queryFrame with pending := [.write 0x000 0xC1] } = .next t :=
  (serve_end (.write 0x000 0xC1) (holding queryFrame)).imp fun _ h => h.1

theorem witness_CrcIsAffine : ([0x01, 0x11] : List Byte).length = ([0xFF, 0x00] : List Byte).length := rfl

theorem witness_SingleByteChangeIsDetected :
    (0x0B#8 ≠ 0x0C) ∧ validate ([0x01, 0x06, 0x00, 0x01, 0x00, 0x03, 0x98] ++ 0x0B :: []) = true := by decide +kernel

/-- A burst inside bits 48 to 63 of an 8-byte frame. -/
theorem witness_BurstUpToSixteenBitsIsDetected :
    writeFrame.length = ([0x01, 0x06, 0x00, 0x01, 0x00, 0x03, 0x98, 0x9B] : List Byte).length ∧
    writeFrame ≠ [0x01, 0x06, 0x00, 0x01, 0x00, 0x03, 0x98, 0x9B] ∧
    (∀ k, k < 48 ∨ 48 + 16 ≤ k → (writeFrame.getD (k / 8) 0).getLsbD (k % 8) =
      (([0x01, 0x06, 0x00, 0x01, 0x00, 0x03, 0x98, 0x9B] : List Byte).getD (k / 8) 0).getLsbD (k % 8)) ∧
    validate writeFrame = true := by
  refine ⟨rfl, by decide, fun k hk => ?_, by decide +kernel⟩
  rcases hk with hk | hk
  · interval_cases k <;> rfl
  · rw [List.getD_eq_default _ _ (by simp [writeFrame]; omega), List.getD_eq_default _ _ (by simp; omega)]

theorem witness_EncrdEncodesAReadWithTheCountClamped :
    (∀ n ∈ [1, 125], let s := operands 0 (BitVec.ofNat 16 n) []
      1 ≤ s.arg1.toNat ∧ s.arg1.toNat ≤ 125) ∧
    (∀ n ∈ [0, 126, 0xFFFF], let s := operands 0 (BitVec.ofNat 16 n) []
      s.arg1.toNat = 0 ∨ 125 < s.arg1.toNat) := by decide

theorem witness_EncwmEncodesAWriteMultiple :
    (∀ n ∈ [0, 127], ({ blank with valN := BitVec.ofNat 8 n } : State).valN.toNat ≤ 127 ∧
      ({ blank with arg1 := BitVec.ofNat 16 n } : State).arg1.toNat = n) ∧
    (127 < ({ blank with valN := 128, arg1 := 128 } : State).valN.toNat) ∧
    (operands 1 3 [1, 2]).arg1.toNat ≠ (operands 1 3 [1, 2]).valN.toNat := by decide

theorem witness_EncridEncodesAnIdentification :
    ({ blank with strLen := 253 } : State).strLen.toNat ≤ 253 ∧ 253 < ({ blank with strLen := 254 } : State).strLen.toNat := by
  decide

theorem witness_EncrrdEncodesAReadReply :
    (∀ n ∈ [1, 125], let s : State := { blank with valN := BitVec.ofNat 8 n }
      1 ≤ s.valN.toNat ∧ s.valN.toNat ≤ 125) ∧
    (∀ n ∈ [0, 126, 255], let s : State := { blank with valN := BitVec.ofNat 8 n }
      s.valN.toNat = 0 ∨ 125 < s.valN.toNat) := by decide

theorem witness_ClampServesOneToOneHundredTwentyFive :
    (∀ n ∈ [1, 125], 1 ≤ (BitVec.ofNat 16 n).toNat ∧ (BitVec.ofNat 16 n).toNat ≤ 125) ∧
    (∀ n ∈ [0, 126, 0xFFFF], (BitVec.ofNat 16 n).toNat = 0 ∨ 125 < (BitVec.ofNat 16 n).toNat) := by decide

/-- For `EncodersStoreOnlyTheirFrame`, `EncodersWriteFramesOfTheTableLengths` and `EncodedFramesValidate`: each encoder with
operands it accepts. -/
theorem witness_encoders_with_ok :
    blank.params.wf ∧ Memory.wf (operands 0 1 [7]) ∧
    ∀ i ∈ [Instr.encq, .encrd, .encwr, .encwm, .encrid, .encrrd, .encrwr, .encrwm], IsEncoder i ∧
      look (exec i (operands 0 1 [7])) (fun t => t.status.getLsbD 0) = some true :=
  ⟨by decide, by decide +kernel, fun i hi => ⟨hi, by revert i; decide +kernel⟩⟩

theorem witness_UsageErrorWritesNoFrame :
    look (exec .encrrd blank) (fun t => t.status.getLsbD 6) = some true := by decide +kernel

/-- States that differ where the encoder does not look: ENCQ in the arguments and the buffer, ENCRID in the high halves of its
arguments and past the end of its string. -/
theorem witness_EncodersReadOnlyTheirOperands :
    (IsEncoder .encq ∧ SameInputs .encq (operands 1 2 [3]) (holding writeFrame)) ∧
    (IsEncoder .encrid ∧ SameInputs .encrid (stringOperands 0x002A 0x00FF []) (stringOperands 0x012A 0x01FF [])) ∧
    (∃ t, exec .encq (operands 1 2 [3]) = .next t) ∧ ∃ t, exec .encq (holding writeFrame) = .next t :=
  ⟨⟨.head _, rfl, rfl⟩, ⟨by simp [IsEncoder], by unfold SameInputs; decide +kernel⟩, witness_command_answers _ _,
    witness_command_answers _ _⟩

theorem witness_RequestFramesRoundTrip :
    let s : State := { blank with valN := 127, arg1 := 127 }
    s.params.wf ∧ Memory.wf s ∧ s.valN.toNat ≤ 127 ∧ s.arg1.toNat = s.valN.toNat := ⟨by decide, by decide +kernel, by decide, rfl⟩

theorem witness_ReplyFramesRoundTrip :
    let s : State := { blank with valN := 125, strLen := 253 }
    s.params.wf ∧ Memory.wf s ∧ s.strLen.toNat ≤ 253 ∧ 1 ≤ s.valN.toNat ∧ s.valN.toNat ≤ 125 :=
  ⟨by decide, by decide +kernel, by decide, by decide, by decide⟩

theorem witness_DecreqDecodesAQuery :
    Claims.RequestArrived (holding queryFrame) ∧ byteAt (frame (holding queryFrame)) 1 = blank.params.fcQuery ∧
    (holding queryFrame).fbLen.toNat = 4 := by
  unfold Claims.RequestArrived; decide +kernel

/-- The served and the clamped counts at their bounds. -/
theorem witness_DecreqDecodesAReadWithTheCountClamped :
    (∀ f ∈ [oneCountFrame, readFrame, clampedFrame, zeroCountFrame],
      Claims.RequestArrived (holding f) ∧ byteAt (frame (holding f)) 1 = blank.params.fcRead ∧ (holding f).fbLen.toNat = 8) ∧
    [oneCountFrame, readFrame, clampedFrame, zeroCountFrame].map (fun f => Claims.beField (frame (holding f)) 4)
      = [1, 125, 126, 0] := by
  unfold Claims.RequestArrived; decide +kernel

theorem witness_DecreqDecodesAWrite :
    Claims.RequestArrived (holding writeFrame) ∧ byteAt (frame (holding writeFrame)) 1 = blank.params.fcWrite ∧
    (holding writeFrame).fbLen.toNat = 8 := by
  unfold Claims.RequestArrived; decide +kernel

theorem witness_DecreqDecodesAWriteMultiple :
    (∀ f ∈ [emptyWritemFrame, badWritemFrame], Claims.RequestArrived (holding f) ∧
      byteAt (frame (holding f)) 1 = blank.params.fcWritem ∧
      (holding f).fbLen.toNat = 9 + (byteAt (frame (holding f)) 6).toNat) ∧
    (byteAt (frame (holding emptyWritemFrame)) 6).toNat = 2 * (Claims.beField (frame (holding emptyWritemFrame)) 4).toNat ∧
    (byteAt (frame (holding badWritemFrame)) 6).toNat ≠ 2 * (Claims.beField (frame (holding badWritemFrame)) 4).toNat := by
  unfold Claims.RequestArrived; decide +kernel

theorem witness_DecrplDecodesAnIdentification :
    (∀ f ∈ [idFrame, badIdFrame], Memory.wf (holding f) ∧
      Claims.ReplyArrived (holding f) blank.params.fcQuery (5 + (byteAt (frame (holding f)) 2).toNat)) ∧
    (byteAt (frame (holding idFrame)) 2).toNat = 2 ∧ (byteAt (frame (holding badIdFrame)) 2).toNat = 1 := by
  unfold Claims.ReplyArrived; decide +kernel

theorem witness_DecrplDecodesAReadReply :
    (∀ f ∈ [emptyReadReply, oddReadReply],
      Claims.ReplyArrived (holding f) blank.params.fcRead (5 + (byteAt (frame (holding f)) 2).toNat)) ∧
    (byteAt (frame (holding emptyReadReply)) 2).toNat = 0 ∧ (byteAt (frame (holding oddReadReply)) 2).toNat = 3 := by
  unfold Claims.ReplyArrived; decide +kernel

theorem witness_DecrplDecodesTheWriteReplies :
    Claims.ReplyArrived (holding writeFrame) blank.params.fcWrite 8 ∧
    Claims.ReplyArrived (holding writemReply) blank.params.fcWritem 8 := by
  unfold Claims.ReplyArrived; decide +kernel

/-- A reply, and a request, with one byte after it. -/
theorem witness_TrailingBytesAreIgnoredByDecrplOnly :
    blank.params.wf ∧ (holding (writeFrame ++ [0x00])).fbLen = 9 ∧ (8 : Word).toNat < (9 : Word).toNat ∧
    (9 : Word).toNat ≤ blank.params.fbSize.toNat ∧
    look (exec .decrpl { holding (writeFrame ++ [0x00]) with fbLen := 8 }) (fun t => t.status.getLsbD 0) = some true ∧
    look (exec .decreq { holding (writeFrame ++ [0x00]) with fbLen := 8 }) (fun t => t.status.getLsbD 0) = some true := by
  decide +kernel

theorem witness_FailedDecodeIsTheSentinel :
    IsDecoder .decreq ∧ IsDecoder .decrpl ∧ look (exec .decreq blank) (fun t => t.status.getLsbD 0) = some false ∧
    look (exec .decrpl blank) (fun t => t.status.getLsbD 0) = some false :=
  ⟨.inl rfl, .inr rfl, by decide +kernel, by decide +kernel⟩

theorem witness_decoders_answer :
    (∃ t, exec .decreq (holding emptyWritemFrame) = .next t) ∧ ∃ t, exec .decrpl (holding idFrame) = .next t :=
  ⟨witness_command_answers _ _, witness_command_answers _ _⟩

/-- `MIN_REPLY` at both ends of its range. -/
theorem witness_RxlenGivesTheExpectedLength :
    ({ blank with params := { Config.specDefaults with minReply := 3 } } : State).params.wf ∧
    ({ blank with params := { Config.specDefaults with minReply := 263 } } : State).params.wf := by decide

theorem witness_RxlenAgreesWithTheLayout :
    (∀ f ∈ [idFrame, emptyReadReply, writeFrame], blank.params.minReply.toNat ≤ (holding f).fbLen.toNat ∧
      look (exec .decrpl (holding f)) (fun t => (t.status.getLsbD 0, decide (t.resKind ≠ 8))) = some (true, true)) ∧
    look (exec .decrpl { holding writemReply with params := { Config.specDefaults with xlenWritemRule := .layout } })
      (fun t => (t.status.getLsbD 0, t.resKind, t.params.xlenWritemRule)) = some (true, 8, .layout) := by decide +kernel

theorem witness_WriteMultipleReplyLengthHazard :
    blank.params.wf ∧ blank.params.minReply.toNat ≤ 8 ∧ blank.params.xlenWritemRule = .docFormula ∧
    ({ Config.specDefaults with minReply := 8, xlenWritemRule := .layout } : Params).wf := by decide

theorem witness_commands_answer : ∀ w ∈ [0x00#8, 0x01, 0xC3, 0xFF], ∃ t, runCommand w blank = .next t := by
  intro w _
  unfold runCommand
  split
  · exact witness_command_answers _ _
  · exact ⟨_, rfl⟩

/-- A `STATUS` error bit and its cause code. -/
theorem witness_CommandsRaiseTheListedErrors :
    look (exec .encrrd blank) (fun t => t.status.getLsbD 6) = some true ∧ (1 ≤ 6 ∧ 6 ≤ 7) := by decide +kernel

theorem witness_CrcAndLengthCommandsStoreNoCell :
    ∀ i ∈ [Instr.crc16, .crcchk, .rxlen], ∃ t, exec i (holding idFrame) = .next t :=
  fun _ _ => witness_command_answers _ _

/-- States that differ in an array DECRPL does not read and in the address it does not check. -/
theorem witness_OutputsDependOnInputsOnly :
    SameInputs .decrpl (holding idFrame) { holding idFrame with devAddr := 0x07, val := List.replicate 127 0xFFFF } ∧
    (∃ t, exec .decrpl (holding idFrame) = .next t) ∧
    ∃ t, exec .decrpl { holding idFrame with devAddr := 0x07, val := List.replicate 127 0xFFFF } = .next t :=
  ⟨⟨rfl, rfl, fun _ => rfl⟩, witness_command_answers _ _, witness_command_answers _ _⟩

/-- Cells past the frame changed, and all cells changed when the length is past the buffer. -/
theorem witness_CellsPastTheFrameAreNeverRead :
    (idFrame ++ List.replicate 256 0xEE).take (holding idFrame).fbLen.toNat
      = (holding idFrame).fb.take (holding idFrame).fbLen.toNat ∧
    ¬ bufferInBound { blank with fbLen := 264 } ∧ ∃ t, exec .rxlen (holding idFrame) = .next t :=
  ⟨by decide +kernel, by decide, witness_command_answers _ _⟩

theorem witness_EveryStepKeepsTheInvariant :
    Sound { blank with pending := [.write 0x000 0x41] } ∧
    ∃ t, step { blank with pending := [.write 0x000 0x41] } = .next t :=
  ⟨⟨witness_blank_sound.params, witness_blank_sound.memory, .inl rfl, witness_blank_sound.resKind⟩,
    (serve_end (.write 0x000 0x41) blank).imp fun _ h => h.1⟩

end Sys2Proof.Tests
end

section
/-! SUPPORT. What a step that answers `t` has done: the inversions of `serve` and of `step`, for the statements about every
step; and the obligation on the build parameters. -/

namespace Sys2Proof.Machine

/-- A host access that is served leaves one of the ends of `AccessEnd`. -/
theorem accessEnd_of_serve {a : HostAccess} {s t : State} (h : serve a s = .next t) : AccessEnd s t := by
  obtain ⟨u, hu, hend⟩ := serve_end a s
  cases hu.symm.trans h
  exact hend

/-- A step is idle with no access queued, and serves the first access otherwise (20_memory.md R70, 60_exceptions.md R252). -/
theorem step_cases {s t : State} (h : step s = .next t) :
    (s.pending = [] ∧ t = s) ∨
    ∃ a rest, s.pending = a :: rest ∧ serve a { s with pending := rest } = .next t := by
  cases hp : s.pending with
  | nil =>
    rw [step_idle hp] at h
    cases h
    exact .inl ⟨rfl, rfl⟩
  | cons a rest => exact .inr ⟨a, rest, rfl, step_serve hp ▸ h⟩

/-- Settles O14: an idle step changes nothing, and no host access touches the build parameters (00_scope.md R7,
70_reset_and_hazards.md R272). -/
theorem parametersNeverChange : Obligations.ParametersNeverChange := by
  intro s t h
  obtain ⟨-, rfl⟩ | ⟨a, rest, -, hserve⟩ := step_cases h
  · rfl
  · exact (access_keeps (accessEnd_of_serve hserve)).1

end Sys2Proof.Machine
end

section
/-! SUPPORT. What a command that answers `t` has done, by its class: the inversions of `exec` for the CRC unit, the encoders,
the decoders and RXLEN (10_state.md R39), and the values each class can leave in `STATUS`. -/

namespace Sys2Proof.Machine

/-! ### The classes of commands -/

variable {i : Instr} {s t : State}

theorem command_classes (i : Instr) : (i = .crc16 ∨ i = .crcchk) ∨ IsEncoder i ∨ IsDecoder i ∨ i = .rxlen := by
  cases i <;> simp [IsEncoder, IsDecoder]

theorem isEncoder_iff : IsEncoder i ↔ i = .encq ∨ i = .encrd ∨ i = .encwr ∨ i = .encwm ∨ i = .encrid ∨ i = .encrrd ∨
    i = .encrwr ∨ i = .encrwm := by simp [IsEncoder]

theorem not_isDecoder_of_isEncoder (hi : IsEncoder i) : ¬ IsDecoder i := by
  rintro (rfl | rfl) <;> simp [IsEncoder] at hi

theorem ne_rxlen_of_isEncoder (hi : IsEncoder i) : i ≠ .rxlen := by
  rintro rfl
  simp [IsEncoder] at hi

/-! ### Inversions of `exec` -/

/-- What is known of the state an outcome answers holds of the state it is said to answer. -/
theorem of_answer {P : State → Prop} {o : Host.Outcome State Fault Refusal} (hend : ∃ u, o = .next u ∧ P u)
    (h : o = .next t) : P t := by
  obtain ⟨u, hu, hP⟩ := hend
  cases hu.symm.trans h
  exact hP

theorem crcUnitEnd_of_exec (hi : i = .crc16 ∨ i = .crcchk) (h : exec i s = .next t) : CrcUnitEnd s t := by
  obtain rfl | rfl := hi
  · exact of_answer (execCrc16_end s) h
  · exact of_answer (execCrcchk_end s) h

theorem encoderEnd_of_exec (hi : IsEncoder i) (h : exec i s = .next t) : EncoderEnd s t := by
  obtain rfl | rfl | rfl | rfl | rfl | rfl | rfl | rfl := isEncoder_iff.1 hi
  · exact of_answer (execEncq_end s) h
  · exact of_answer (execEncrd_end s) h
  · exact of_answer (execEncwr_end s) h
  · exact of_answer (execEncwm_end s) h
  · exact of_answer (execEncrid_end s) h
  · exact of_answer (execEncrrd_end s) h
  · exact of_answer (execEncrwr_end s) h
  · exact of_answer (execEncrwm_end s) h

theorem decoderEnd_of_exec (hi : IsDecoder i) (h : exec i s = .next t) : DecoderEnd s t := by
  obtain rfl | rfl := hi
  · exact of_answer (execDecreq_end s) h
  · exact of_answer (execDecrpl_end s) h

theorem rxlenEnd_of_exec (h : exec .rxlen s = .next t) : RxlenEnd s t := of_answer (execRxlen_end s) h

/-! ### The values of `STATUS` -/

/-- The values of `STATUS` that a command other than RXLEN can leave, the illegal command included (10_state.md R31). -/
def plainStatuses : List Word := [0x0001, 0x0101, 0x0002, 0x0004, 0x0008, 0x0010, 0x0020, 0x0040, 0x0080]

/-- The values of `STATUS` that RXLEN can leave (42_decoder.md R222). -/
def rxlenStatuses : List Word := [0x0001, 0x0201, 0x0601, 0x0608, 0x0004]

theorem crcUnit_status (h : CrcUnitEnd s t) : t.status ∈ [0x0001#16, 0x0002, 0x0004] := by
  obtain ⟨c, b, hb⟩ := h
  exact (by decide : ∀ b ∈ [StatusBit.ok, .crcErr, .lenErr], statusWord [b] ∈ [0x0001#16, 0x0002, 0x0004]) b hb

/-- `OK`, alone or with `CLAMPED` (41_encoder.md R150, 42_decoder.md R192). -/
theorem statusWord_ok_extra {extra : List StatusBit} (h : extra = [] ∨ extra = [.clamped]) :
    statusWord (.ok :: extra) = 0x0001 ∨ statusWord (.ok :: extra) = 0x0101 := by
  obtain rfl | rfl := h
  · exact .inl (by decide)
  · exact .inr (by decide)

theorem statusWord_ok_extra_mem {extra : List StatusBit} (h : extra = [] ∨ extra = [.clamped]) :
    statusWord (.ok :: extra) ∈ plainStatuses := by
  obtain h | h := statusWord_ok_extra h <;> simp [h, plainStatuses]

theorem statusWord_decodeError {err : StatusBit} (h : err ∈ decodeErrors) :
    statusWord [err] ∈ [0x0002#16, 0x0004, 0x0008, 0x0010, 0x0020] :=
  (by decide : ∀ err ∈ decodeErrors, statusWord [err] ∈ [0x0002#16, 0x0004, 0x0008, 0x0010, 0x0020]) err h

theorem rxlen_status (h : RxlenEnd s t) : t.status ∈ rxlenStatuses := by
  obtain ⟨x, bits, hbits⟩ := h
  exact (by decide : ∀ bits ∈ [[StatusBit.ok], [.ok, .xfinal], [.ok, .xfinal, .xdone], [.fcErr, .xfinal, .xdone], [.lenErr]],
    statusWord bits ∈ rxlenStatuses) bits hbits

theorem encoder_status (h : EncoderEnd s t) : t.status ∈ plainStatuses := by
  cases h with
  | frame body extra _ _ _ hextra =>
    exact statusWord_ok_extra_mem hextra
  | usage => exact (by decide : statusWord [.usageErr] ∈ plainStatuses)

theorem decoder_status (h : DecoderEnd s t) : t.status ∈ plainStatuses := by
  cases h with
  | result d hd => exact statusWord_ok_extra_mem hd.extra
  | sentinel err herr =>
    exact (by decide : [0x0002#16, 0x0004, 0x0008, 0x0010, 0x0020] ⊆ plainStatuses) (statusWord_decodeError herr)

/-- The twelve values of `STATUS` over all commands, by the end each command comes to. -/
theorem command_status (h : CommandEnd s t) : t.status ∈ plainStatuses ++ rxlenStatuses := by
  cases h with
  | crcUnit h =>
    exact (by decide : [0x0001#16, 0x0002, 0x0004] ⊆ plainStatuses ++ rxlenStatuses) (crcUnit_status h)
  | encoder h => exact List.mem_append_left _ (encoder_status h)
  | decoder h => exact List.mem_append_left _ (decoder_status h)
  | rxlen h => exact List.mem_append_right _ (rxlen_status h)

theorem exec_status_of_ne_rxlen (hi : i ≠ .rxlen) (h : exec i s = .next t) : t.status ∈ plainStatuses := by
  obtain hc | he | hd | hr := command_classes i
  · exact (by decide : [0x0001#16, 0x0002, 0x0004] ⊆ plainStatuses) (crcUnit_status (crcUnitEnd_of_exec hc h))
  · exact encoder_status (encoderEnd_of_exec he h)
  · exact decoder_status (decoderEnd_of_exec hd h)
  · exact absurd hr hi

/-- A check of every word of a list. (`decide` on the quantified statement would run over all 65536 words.) -/
theorem forall_mem_of_all {l : List Word} {P : Word → Prop} [DecidablePred P] (h : l.all (P ·) = true) : ∀ w ∈ l, P w := by
  simpa using h

/-- Each value a command leaves is a legal `STATUS` (10_state.md R31, R32). -/
theorem verdict_of_mem : ∀ w ∈ plainStatuses ++ rxlenStatuses, Verdict w := forall_mem_of_all (by decide)

end Sys2Proof.Machine
end

section
/-! SUPPORT. The invariant `Sound` (Safety.lean) holds after reset and every step keeps it; and the reset values
(10_state.md R20, R31 to R33, R40). -/

namespace Sys2Proof.Machine

variable {s t : State}

@[simp] theorem storeReg_status (r : Reg) (v : Word) (s : State) : (storeReg r v s).status = s.status := by
  cases r <;> rfl

@[simp] theorem storeReg_resKind (r : Reg) (v : Word) (s : State) : (storeReg r v s).resKind = s.resKind := by
  cases r <;> rfl

/-- A decoder leaves a legal `RES_KIND` code, and no other command writes it (10_state.md R33). -/
theorem command_resKind (h : CommandEnd s t) (hk : s.resKind.toNat ≤ 8) : t.resKind.toNat ≤ 8 := by
  cases h with
  | crcUnit h => cases h; exact hk
  | encoder h => cases h <;> exact hk
  | decoder h =>
    cases h with
    | result d hd => exact hd.kind.2
    | sentinel err _ => simp [kindInvalid]
  | rxlen h => cases h; exact hk

theorem access_status (h : AccessEnd s t) (hs : s.status = 0 ∨ Verdict s.status) : t.status = 0 ∨ Verdict t.status := by
  cases h with
  | returned v h => exact h ▸ hs
  | stored r v h => subst h; simpa only [storeReg_status] using hs
  | ignored h => exact h ▸ hs
  | command h => exact .inr (verdict_of_mem _ (command_status h))
  | illegal h => subst h; exact .inr (by decide : Verdict (statusWord [.cmdErr]))
  | reset h => subst h; exact .inl rfl

theorem access_resKind (h : AccessEnd s t) (hk : s.resKind.toNat ≤ 8) : t.resKind.toNat ≤ 8 := by
  cases h with
  | returned v h => exact h ▸ hk
  | stored r v h => subst h; simpa only [storeReg_resKind] using hk
  | ignored h => exact h ▸ hk
  | command h => exact command_resKind h hk
  | illegal h => exact h ▸ hk
  | reset h => subst h; exact Nat.zero_le 8

/-- No host access breaks the invariant. -/
theorem access_sound (h : AccessEnd s t) (hs : Sound s) : Sound t where
  params := (access_keeps h).1 ▸ hs.params
  memory := access_wf h hs.memory hs.params.2.2
  status := access_status h hs.status
  resKind := access_resKind h hs.resKind

/-- Whether a state is sound does not depend on the accesses the host has yet to issue. -/
theorem Sound.withPending (hs : Sound s) (rest : List HostAccess) : Sound { s with pending := rest } :=
  ⟨hs.params, hs.memory, hs.status, hs.resKind⟩

/-- Settles O59: an idle step changes nothing, and the access a step serves keeps each part of the invariant. -/
theorem everyStepKeepsTheInvariant : Obligations.EveryStepKeepsTheInvariant := by
  intro s t hs h
  obtain ⟨-, rfl⟩ | ⟨a, rest, -, hserve⟩ := step_cases h
  · exact hs
  · exact access_sound (accessEnd_of_serve hserve) (hs.withPending rest)

/-- Settles O60: the spec defaults meet 00_scope.md R7, the arrays are whole, and `STATUS` and `RES_KIND` are 0. -/
theorem resetMeetsTheInvariant : Obligations.ResetMeetsTheInvariant where
  params := by decide
  memory := reset_wf
  status := .inl rfl
  resKind := Nat.zero_le 8

/-- The registers as a reset leaves them, whatever the parameters and the number of the reset (10_state.md R40). -/
theorem afterReset_atReset (p : Params) (k : Nat) : AtReset (State.afterReset p k) :=
  ⟨rfl, rfl, rfl, rfl, rfl, rfl, rfl, rfl, rfl, rfl, rfl, rfl, rfl, rfl, rfl, rfl, rfl, afterReset_wf p k⟩

/-- The host's accesses and what it has read are no part of what a reset sets. -/
theorem hostReset_atReset (s : State) : AtReset (hostReset s) :=
  ⟨rfl, rfl, rfl, rfl, rfl, rfl, rfl, rfl, rfl, rfl, rfl, rfl, rfl, rfl, rfl, rfl, rfl, hostReset_wf s⟩

/-- Settles O7: both power-up and the host's reset action leave the table of 10_state.md R40. -/
theorem resetGivesTheResetValues : Obligations.ResetGivesTheResetValues := by
  refine ⟨⟨afterReset_atReset _ _, rfl⟩, fun s rest hp => ?_⟩
  exact ⟨_, step_serve hp, hostReset_atReset _, rfl, rfl⟩

/-- A word that names no command runs the illegal-command action (60_exceptions.md R246). -/
theorem runCommand_of_not_command {word : Byte} (h : ∀ i, decode word ≠ .ok i) (s : State) :
    runCommand word s = .next (illegalCommand s) := by
  unfold runCommand
  split
  · rename_i i hi
    exact absurd hi (h i)
  · rfl

theorem runCommand_of_decode {word : Byte} {i : Instr} (h : decode word = .ok i) (s : State) :
    runCommand word s = exec i s := by simp only [runCommand, h]

/-- Settles O4: the step serves the write, and a write to `CMD` runs its command word. -/
theorem stepRunsTheDecodedCommand : Obligations.StepRunsTheDecodedCommand := by
  refine ⟨fun s v rest hp => ?_, fun s => rfl⟩
  have hstep : step s = runCommand (lo8 v) { s with pending := rest } := step_serve hp
  constructor
  · intro i hi
    exact hstep.trans (runCommand_of_decode hi _)
  · intro hnone
    have hrun := runCommand_of_not_command hnone { s with pending := rest }
    rw [illegalCommand, setStatus, statusWord_cmdErr] at hrun
    exact hstep.trans hrun

end Sys2Proof.Machine
end

section
/-! SUPPORT. What each command writes and leaves (10_state.md R21 to R35, R39): the verdict in `STATUS`, the frames of the
CRC unit, RXLEN and the decoders, and the writers of each register. -/

namespace Sys2Proof.Machine

variable {i : Instr} {s t : State}

/-! ### The verdict -/

/-- The word of RXLEN is `0xC3`: its two fields are the whole word (30_encoding.md R80, R81). -/
theorem word_of_decode_rxlen {word : Byte} (h : decode word = .ok .rxlen) : word = 0xC3 := by
  have hfields : (familyField word).toNat = 3 ∧ (opField word).toNat = 3 := by
    unfold decode at h
    split at h <;> simp_all
  obtain ⟨hfamily, hop⟩ := hfields
  have hword := word.isLt
  simp only [familyField, opField, BitVec.extractLsb'_toNat, Nat.shiftRight_eq_div_pow] at hfamily hop
  apply BitVec.eq_of_toNat_eq
  simp
  omega

/-- A command word leaves a value of RXLEN's only when it is RXLEN's word. -/
theorem runCommand_status {word : Byte} (h : runCommand word s = .next t) :
    t.status ∈ plainStatuses ∨ (word = 0xC3 ∧ t.status ∈ rxlenStatuses) := by
  unfold runCommand at h
  split at h
  · rename_i i hi
    by_cases hr : i = .rxlen
    · subst hr
      exact .inr ⟨word_of_decode_rxlen hi, rxlen_status (rxlenEnd_of_exec h)⟩
    · exact .inl (exec_status_of_ne_rxlen hr h)
  · cases h
    exact .inl (by decide : statusWord [.cmdErr] ∈ plainStatuses)

/-- Settles O53: each value a command leaves in `STATUS` has one verdict bit, and only RXLEN's have bits 10 or 9. -/
theorem oneVerdictPerCommand : Obligations.OneVerdictPerCommand := by
  refine ⟨fun w s t h => ?_, rfl⟩
  have hstatus := runCommand_status h
  have hmem : t.status ∈ plainStatuses ++ rxlenStatuses :=
    List.mem_append.2 (hstatus.imp id And.right)
  refine ⟨?_, ?_, ?_, ?_⟩
  · exact forall_mem_of_all (P := fun w => ∃ k < 8, ∀ j < 8, w.getLsbD j = decide (j = k)) (by decide) _ hmem
  · exact (verdict_of_mem _ hmem).2.1
  · obtain hplain | ⟨hw, -⟩ := hstatus
    · have hbits := forall_mem_of_all (P := fun w => w.getLsbD 9 = false ∧ w.getLsbD 10 = false) (by decide) _ hplain
      rw [hbits.1, hbits.2]
      simp
    · exact fun _ => hw
  · intro j hj
    have hlt := forall_mem_of_all (P := fun w => w.toNat < 2 ^ 11) (by decide) _ hmem
    exact Nat.testBit_lt_two_pow (hlt.trans_le (Nat.pow_le_pow_right (by decide) hj))

/-! ### Frames -/

/-- Settles O55: the ends of the CRC unit and of RXLEN name the two registers each writes. -/
theorem crcAndLengthCommandsStoreNoCell : Obligations.CrcAndLengthCommandsStoreNoCell := by
  intro i s t h
  refine ⟨fun hi => ?_, fun hi => ?_, fun hi k => ?_⟩
  · cases crcUnitEnd_of_exec hi h; rfl
  · subst hi; cases rxlenEnd_of_exec h; rfl
  · obtain hi | hi | rfl := hi
    · cases crcUnitEnd_of_exec (.inl hi) h; exact ⟨rfl, rfl, rfl⟩
    · cases crcUnitEnd_of_exec (.inr hi) h; exact ⟨rfl, rfl, rfl⟩
    · cases rxlenEnd_of_exec h; exact ⟨rfl, rfl, rfl⟩

/-- A request carries no string (42_decoder.md R195 to R198). -/
theorem decodeRequest_str {d : Decoded} (h : decodeRequest s = .ok d) : d.str = [] := by
  obtain ⟨-, -, -, -, ⟨-, -, rfl⟩ | ⟨-, -, rfl⟩ | ⟨-, -, rfl⟩ | ⟨-, -, hw⟩⟩ := decodeRequest_ok h
  · rfl
  · rfl
  · rfl
  · obtain ⟨-, rfl⟩ := writemFields_ok hw
    rfl

theorem exec_decreq_str (h : exec .decreq s = .next t) : t.str = s.str := by
  cases h
  cases hd : decodeRequest s with
  | ok d => simp [finishDecode, decodeRequest_str hd]
  | error err => rfl

theorem result_valN_toNat {d : Decoded} (hd : d.Fits) (s : State) : (result d s).valN.toNat = d.vals.length :=
  Nat.mod_eq_of_lt (hd.vals.trans_lt (by decide))

theorem result_strLen_toNat {d : Decoded} (hd : d.Fits) (s : State) : (result d s).strLen.toNat = d.str.length :=
  Nat.mod_eq_of_lt (hd.str.trans_lt (by decide))

/-- Settles O48: the two ends of a decoder name what they write, and a result is stored at the front of its array. -/
theorem decodersWriteOnlyTheirResults : Obligations.DecodersWriteOnlyTheirResults := by
  intro i s t hi h
  have hstr : i = .decreq → t.str = s.str := by rintro rfl; exact exec_decreq_str h
  cases decoderEnd_of_exec hi h with
  | result d hd =>
    refine ⟨⟨_, _, _, _, _, _, _, _, _, _, _, _, rfl⟩, fun k hk => ?_, fun k hk => ?_, hstr⟩
    · exact storeAtFront_getD_kept _ _ _ (result_valN_toNat hd s ▸ hk)
    · exact storeAtFront_getD_kept _ _ _ (result_strLen_toNat hd s ▸ hk)
  | sentinel err _ =>
    exact ⟨⟨_, _, _, _, _, _, _, _, _, _, s.val, s.str, rfl⟩, fun _ _ => rfl, fun _ _ => rfl, hstr⟩

/-- Settles O49: a result sets `OK` and a kind from 1 to 8, the sentinel an error bit, kind 0 and lengths 0. -/
theorem invalidKindMeansFailedDecode : Obligations.InvalidKindMeansFailedDecode := by
  intro i s t hi h
  cases decoderEnd_of_exec hi h with
  | result d hd =>
    have hok : (result d s).status.getLsbD 0 = true := by
      obtain h | h := statusWord_ok_extra hd.extra <;> simp [h]
    have hkind : d.kind ≠ 0 := by
      intro h0
      have := hd.kind.1
      simp [h0] at this
    exact ⟨iff_of_false hkind (ne_of_eq_of_ne hok (by decide)), hd.kind.2,
      fun hfail => absurd (hok.symm.trans hfail) (by decide)⟩
  | sentinel err herr =>
    have hfail : (sentinel err s).status.getLsbD 0 = false :=
      forall_mem_of_all (P := fun w => w.getLsbD 0 = false) (by decide) _ (statusWord_decodeError herr)
    exact ⟨iff_of_true rfl hfail, Nat.zero_le 8, fun _ => ⟨rfl, rfl⟩⟩

/-- A frame with `OK` raises no `USAGE_ERR`, and a usage error leaves `CRC` (41_encoder.md R150, R152). -/
theorem encoder_crc_of_usageErr (h : EncoderEnd s t) (h6 : t.status.getLsbD 6 = true) : t.crc = s.crc := by
  cases h with
  | frame body extra _ _ _ hextra =>
    obtain h | h := statusWord_ok_extra hextra <;> simp [h] at h6
  | usage => rfl

/-- Settles O56: the class of a command names its end, and each end names the registers it writes. -/
theorem eachRegisterHasItsWriters : Obligations.EachRegisterHasItsWriters := by
  intro i s t h
  obtain hi | hi | hi | rfl := command_classes i
  · have hend := crcUnitEnd_of_exec hi h
    have hno := forall_mem_of_all (P := fun w => w.getLsbD 6 = false) (by decide) _ (crcUnit_status hend)
    have hnone : ¬ (IsDecoder i ∨ i = .rxlen ∨ t.status.getLsbD 6 = true) := by
      rw [hno]
      obtain rfl | rfl := hi <;> simp [IsDecoder]
    cases hend
    exact ⟨⟨rfl, rfl, rfl⟩, fun _ => rfl, fun _ => by simp, fun _ => ⟨rfl, rfl⟩, fun hc => absurd hc hnone⟩
  · have hend := encoderEnd_of_exec hi h
    have hcrc : IsDecoder i ∨ i = .rxlen ∨ t.status.getLsbD 6 = true → t.crc = s.crc := by
      rintro (hc | hc | h6)
      · exact absurd hc (not_isDecoder_of_isEncoder hi)
      · exact absurd hc (ne_rxlen_of_isEncoder hi)
      · exact encoder_crc_of_usageErr hend h6
    cases hend <;> exact ⟨⟨rfl, rfl, rfl⟩, fun _ => rfl, fun _ => by simp, fun hn => absurd hi hn, hcrc⟩
  · cases decoderEnd_of_exec hi h <;> simp [hi]
  · cases rxlenEnd_of_exec h
    simp

end Sys2Proof.Machine
end

section
/-! SUPPORT. The outputs of a command are a function of its inputs (10_state.md R38): per class of commands, what two states
that agree on the inputs make of it. -/

namespace Sys2Proof.Machine

variable {i : Instr} {s s' t t' : State}

theorem bufferInBound_congr (hp : s.params = s'.params) (hl : s.fbLen = s'.fbLen) :
    bufferInBound s ↔ bufferInBound s' := by rw [bufferInBound, hp, hl]

/-! ### The CRC unit -/

theorem crc16_outputs (hin : SameInputs .crc16 s s') (h : exec .crc16 s = .next t) (h' : exec .crc16 s' = .next t') :
    SameOutputs .crc16 t t' := by
  obtain ⟨hp, hl, hframe⟩ := hin
  have hbound := bufferInBound_congr hp hl
  simp only [exec, execCrc16] at h h'
  by_cases hb : bufferInBound s
  · rw [if_pos hb] at h
    rw [if_pos (hbound.1 hb)] at h'
    cases h; cases h'
    exact ⟨rfl, fun _ => congrArg crc16 (hframe hb)⟩
  · rw [if_neg hb] at h
    rw [if_neg (mt hbound.2 hb)] at h'
    cases h; cases h'
    exact ⟨rfl, fun hok => by simp at hok⟩

theorem crcchk_outputs (hin : SameInputs .crcchk s s') (h : exec .crcchk s = .next t) (h' : exec .crcchk s' = .next t') :
    SameOutputs .crcchk t t' := by
  obtain ⟨hp, hl, hframe⟩ := hin
  have hbound := bufferInBound_congr hp hl
  simp only [exec, execCrcchk] at h h'
  by_cases hb : bufferInBound s
  · have hverdict : crcchkVerdict s = crcchkVerdict s' := by rw [crcchkVerdict, crcchkVerdict, hl, hframe hb]
    rw [if_pos hb] at h
    rw [if_pos (hbound.1 hb)] at h'
    cases h; cases h'
    exact ⟨congrArg (fun b => statusWord [b]) hverdict, fun _ => congrArg crc16 (hframe hb)⟩
  · rw [if_neg hb] at h
    rw [if_neg (mt hbound.2 hb)] at h'
    cases h; cases h'
    exact ⟨rfl, fun hbt => absurd hbt hb⟩

/-! ### The encoders -/

/-- An encoder ends in two states in the same way: the same body and the same bits, or a usage error in both. -/
inductive SameEncoderEnd (s s' : State) : State → State → Prop where
  | emit (body : List Byte) (extra : List StatusBit) : SameEncoderEnd s s' (emit body extra s) (emit body extra s')
  | usage : SameEncoderEnd s s' (usageError s) (usageError s')

theorem sameEncoderEnd_of_emit {body : List Byte} {extra : List StatusBit}
    (h : (.next (emit body extra s) : Host.Outcome State Fault Refusal) = .next t)
    (h' : (.next (emit body extra s') : Host.Outcome State Fault Refusal) = .next t') : SameEncoderEnd s s' t t' := by
  cases h; cases h'
  exact .emit body extra

/-- A check that both states fail or both pass: a usage error in both, or what comes after the check. -/
theorem sameEncoderEnd_of_check {c : Prop} [Decidable c] {o o' : Host.Outcome State Fault Refusal}
    (h : (if c then .next (usageError s) else o) = .next t) (h' : (if c then .next (usageError s') else o') = .next t')
    (hpassed : o = .next t → o' = .next t' → SameEncoderEnd s s' t t') : SameEncoderEnd s s' t t' := by
  by_cases hc : c
  · rw [if_pos hc] at h h'
    cases h; cases h'
    exact .usage
  · rw [if_neg hc] at h h'
    exact hpassed h h'

/-- An encoder's end depends on its operands and the parameters alone (41_encoder.md R161). -/
theorem encoder_sameEnd (hi : IsEncoder i) (hin : SameInputs i s s') (h : exec i s = .next t) (h' : exec i s' = .next t') :
    SameEncoderEnd s s' t t' := by
  obtain ⟨hp, hin⟩ := hin
  cases i with
  | crc16 | crcchk | decreq | decrpl | rxlen => simp [IsEncoder] at hi
  | encq =>
    simp only [exec, execEncq, ← hp, ← hin] at h h'
    exact sameEncoderEnd_of_emit h h'
  | encrd | encwr | encrwr | encrwm =>
    obtain ⟨hd, h0, h1⟩ := hin
    simp only [exec, execEncrd, execEncwr, execEncrwr, execEncrwm, ← hp, ← hd, ← h0, ← h1] at h h'
    exact sameEncoderEnd_of_emit h h'
  | encwm =>
    obtain ⟨hd, h0, h1, hn, hvals⟩ := hin
    have hbody : encwmBody s = encwmBody s' := by rw [encwmBody, encwmBody, hp, hd, h0, hn, hvals]
    simp only [exec, execEncwm, ← hbody, ← h1, ← hn] at h h'
    exact sameEncoderEnd_of_check h h' fun h h' => sameEncoderEnd_of_check h h' sameEncoderEnd_of_emit
  | encrid =>
    obtain ⟨hd, h0, h1, hn, hstr⟩ := hin
    have hbody : encridBody s = encridBody s' := by rw [encridBody, encridBody, hp, hd, h0, h1, hn, hstr]
    simp only [exec, execEncrid, ← hbody, ← hn] at h h'
    exact sameEncoderEnd_of_check h h' sameEncoderEnd_of_emit
  | encrrd =>
    obtain ⟨hd, hn, hvals⟩ := hin
    have hbody : encrrdBody s = encrrdBody s' := by rw [encrrdBody, encrrdBody, hp, hd, hn, hvals]
    simp only [exec, execEncrrd, ← hbody, ← hn] at h h'
    exact sameEncoderEnd_of_check h h' sameEncoderEnd_of_emit

/-- The frame an encoder leaves does not depend on what the buffer held. -/
theorem frame_emit_congr (body : List Byte) (extra : List StatusBit) (s s' : State) :
    frame (emit body extra s) = frame (emit body extra s') := by
  have hlen : (BitVec.ofNat 16 (body.length + 2)).toNat ≤ (appendCrc body).length := by
    rw [appendCrc_length]
    exact Nat.mod_le _ _
  simp only [frame, emit_fbLen, emit_fb, storeAtFront, List.take_append_of_le_length hlen]

theorem encoder_outputs (hi : IsEncoder i) (hend : SameEncoderEnd s s' t t') : SameOutputs i t t' := by
  have houtputs : t.status = t'.status ∧ t.fbLen = t'.fbLen ∧ frame t = frame t' ∧
      (t.status.getLsbD 0 = true → t.crc = t'.crc) := by
    cases hend with
    | emit body extra => exact ⟨rfl, rfl, frame_emit_congr body extra s s', fun _ => rfl⟩
    | usage => exact ⟨rfl, rfl, by rw [frame_usageError, frame_usageError], fun hok => by simp at hok⟩
  obtain rfl | rfl | rfl | rfl | rfl | rfl | rfl | rfl := isEncoder_iff.1 hi <;> exact houtputs

/-! ### The decoders -/

theorem decodeRequest_congr (hin : SameInputs .decreq s s') : decodeRequest s = decodeRequest s' := by
  obtain ⟨hp, hd, hl, hframe⟩ := hin
  have hbound := bufferInBound_congr hp hl
  unfold decodeRequest
  by_cases hb : bufferInBound s
  · rw [if_pos hb, if_pos (hbound.1 hb), hp, hd, hl, hframe hb]
  · rw [if_neg hb, if_neg (mt hbound.2 hb)]

theorem decodeReply_congr (hin : SameInputs .decrpl s s') : decodeReply s = decodeReply s' := by
  obtain ⟨hp, hl, hframe⟩ := hin
  have hbound := bufferInBound_congr hp hl
  unfold decodeReply
  by_cases hb : bufferInBound s
  · rw [if_pos hb, if_pos (hbound.1 hb), hp, hl, hframe hb]
  · rw [if_neg hb, if_neg (mt hbound.2 hb)]

/-- What the decoder writes is what it found, with the address and the function code of the frame. -/
theorem result_outputs (hi : IsDecoder i) {d : Decoded} (hd : d.Fits) (hframe : frame s = frame s') :
    SameOutputs i (result d s) (result d s') := by
  have hvals : d.vals.length < 256 := hd.vals.trans_lt (by decide)
  have hstr : d.str.length < 256 := hd.str.trans_lt (by decide)
  obtain rfl | rfl := hi <;>
    simp [SameOutputs, hframe, values_result d _ hvals, string_result d _ hstr]

theorem sentinel_outputs (hi : IsDecoder i) (err : StatusBit) (s s' : State) :
    SameOutputs i (sentinel err s) (sentinel err s') := by
  obtain rfl | rfl := hi <;> simp [SameOutputs, values, string]

/-- One verdict written in two states, with the same frame when it is a result. -/
theorem finishDecode_outputs (hi : IsDecoder i) {verdict : Except StatusBit Decoded}
    (hok : ∀ d, verdict = .ok d → d.Fits ∧ frame s = frame s') :
    SameOutputs i (finishDecode verdict s) (finishDecode verdict s') := by
  cases verdict with
  | ok d => exact result_outputs hi (hok d rfl).1 (hok d rfl).2
  | error err => exact sentinel_outputs hi err s s'

theorem decreq_outputs (hin : SameInputs .decreq s s') (h : exec .decreq s = .next t) (h' : exec .decreq s' = .next t') :
    SameOutputs .decreq t t' := by
  have hsame := decodeRequest_congr hin
  obtain ⟨-, -, -, hframe⟩ := hin
  cases h; cases h'
  rw [← hsame]
  exact finishDecode_outputs (.inl rfl) fun d hd => ⟨decodeRequest_fits hd, hframe (decodeRequest_ok hd).1⟩

theorem decrpl_outputs (hin : SameInputs .decrpl s s') (h : exec .decrpl s = .next t) (h' : exec .decrpl s' = .next t') :
    SameOutputs .decrpl t t' := by
  have hsame := decodeReply_congr hin
  obtain ⟨-, -, hframe⟩ := hin
  cases h; cases h'
  rw [← hsame]
  exact finishDecode_outputs (.inr rfl) fun d hd => ⟨decodeReply_fits hd, hframe (decodeReply_ok hd).1⟩

/-! ### RXLEN -/

theorem predictLength_outputs (hp : s.params = s'.params) (hl : s.fbLen = s'.fbLen)
    (h1 : byteAt s.fb 1 = byteAt s'.fb 1) (h2 : byteAt s.fb 2 = byteAt s'.fb 2) :
    SameOutputs .rxlen (predictLength s) (predictLength s') := by
  unfold predictLength
  rw [← hp, ← hl, ← h1, ← h2]
  cases replyFormula s.params (byteAt s.fb 1) (byteAt s.fb 2) with
  | some x => exact ⟨rfl, rfl⟩
  | none => exact ⟨rfl, rfl⟩

theorem rxlen_outputs (hin : SameInputs .rxlen s s') (h : exec .rxlen s = .next t) (h' : exec .rxlen s' = .next t') :
    SameOutputs .rxlen t t' := by
  obtain ⟨hp, hl, hbytes⟩ := hin
  have hbound := bufferInBound_congr hp hl
  simp only [exec, execRxlen, ← hbound, ← hp, ← hl] at h h'
  by_cases hb : bufferInBound s
  · by_cases hmin : s.fbLen < s.params.minReply
    · simp only [hb, hmin, not_true_eq_false, if_false, if_true] at h h'
      cases h; cases h'
      exact ⟨rfl, rfl⟩
    · simp only [hb, hmin, not_true_eq_false, if_false] at h h'
      cases h; cases h'
      obtain ⟨h1, h2⟩ := hbytes hb (BitVec.not_lt.1 hmin)
      exact predictLength_outputs hp hl h1 h2
  · simp only [hb, not_false_eq_true, if_true] at h h'
    cases h; cases h'
    exact ⟨rfl, rfl⟩

/-- Settles O57, class by class. -/
theorem outputsDependOnInputsOnly : Obligations.OutputsDependOnInputsOnly := by
  intro i s s' t t' hin h h'
  obtain (rfl | rfl) | hi | (rfl | rfl) | rfl := command_classes i
  · exact crc16_outputs hin h h'
  · exact crcchk_outputs hin h h'
  · exact encoder_outputs hi (encoder_sameEnd hi hin h h')
  · exact decreq_outputs hin h h'
  · exact decrpl_outputs hin h h'
  · exact rxlen_outputs hin h h'

end Sys2Proof.Machine
end

section
/-! SUPPORT. The register port, access by access: what a read and a write of an index come to, by what the index map names
there; and the obligations of 20_memory.md about the index map (R61 to R66) and the order of accesses (R70). -/

namespace Sys2Proof.Machine

variable {s t : State} {p : Params} {idx j : RegIndex} {r : Reg} {v : Word}

/-! ### An index the map gives a register or cell -/

theorem regRead_of_regAt (h : regAt s.params idx = some r) : regRead idx s = readReg r s := by
  simp only [regRead, h]

/-- A write to an index of a register or cell other than `CMD` is a store to it. -/
theorem regWrite_of_regAt (v : Word) (h : regAt s.params idx = some r) (hr : r ≠ .cmd) :
    regWrite idx v s = .next (storeReg r v s) := by
  have hidx : idx ≠ 0x000 := by
    rintro rfl
    exact hr (Option.some.inj h).symm
  obtain ⟨q, hq, hw⟩ | ⟨hnone, -⟩ := regWrite_ne_cmd v hidx
  · cases hq.symm.trans h
    exact hw
  · cases hnone.symm.trans h

/-- What an index reads after a write to it. -/
theorem regRead_of_regWrite (h : regAt s.params idx = some r) (hr : r ≠ .cmd) (hw : regWrite idx v s = .next t) :
    regRead idx t = readReg r (storeReg r v s) := by
  cases (regWrite_of_regAt v h hr).symm.trans hw
  exact regRead_of_regAt ((storeReg_params r v s).symm ▸ h)

/-- A store to what one index names leaves what every other index reads. -/
theorem regRead_storeReg_other (v : Word) (h : regAt s.params idx = some r) (hj : j ≠ idx) :
    regRead j (storeReg r v s) = regRead j s := by
  unfold regRead
  rw [storeReg_params]
  cases hq : regAt s.params j with
  | none => rfl
  | some q => exact readReg_storeReg_other r q v s fun hqr => hj (regAt_injective (hqr ▸ hq) h)

/-- An index in the range of an array is that of one of its cells. -/
theorem exists_cell_of_range {base n : Nat} (hlo : base ≤ idx.toNat) (hhi : idx.toNat < base + n) :
    ∃ i < n, idx = BitVec.ofNat 12 (base + i) :=
  ⟨idx.toNat - base, by omega, by rw [Nat.add_sub_cancel' hlo, BitVec.ofNat_toNat, BitVec.setWidth_eq]⟩

/-! ### Reserved indices and read-only registers -/

/-- The map names nothing at a reserved index (20_memory.md R62). -/
theorem regAt_of_reserved (h : Claims.Reserved p idx.toNat) : regAt p idx = none := by
  obtain ⟨hlo, hhi⟩ | ⟨hlo, hhi⟩ | ⟨hlo, hhi⟩ | ⟨hlo, -⟩ := h
  · rw [regAt, if_pos (by omega), List.getElem?_eq_none hlo]
  · rw [regAt, if_neg (by omega), arrayCellAt, if_pos (by omega), if_neg (by omega)]
  · rw [regAt, if_neg (by omega), arrayCellAt, if_neg (by omega), if_pos (by omega),
      if_neg (by rw [Config.valCap]; omega)]
  · rw [regAt, if_neg (by omega), arrayCellAt, if_neg (by omega), if_neg (by omega),
      if_neg (by rw [Config.strCap]; omega)]

/-- The read-only registers are those at `0x001` and at `0x008` to `0x010` (20_memory.md R62, R64). -/
theorem storeReg_of_readOnly (v : Word) (s : State) (h : r.index = 0x001 ∨ (0x008 ≤ r.index ∧ r.index ≤ 0x010)) :
    storeReg r v s = s := by
  cases r with
  | devAddr | arg0 | arg1 | fbLen | valN | strLen | fb _ | val _ | str _ =>
    simp only [Reg.index] at h
    omega
  | cmd | status | crc | xlen | resKind | resAddr | resFc | resF0 | resF1 | resF2 | resBc => rfl

/-- Settles O8: the index map names nothing there. -/
theorem reservedIndicesReadZeroAndIgnoreWrites : Obligations.ReservedIndicesReadZeroAndIgnoreWrites := by
  intro s idx h
  have hnone := regAt_of_reserved h
  exact ⟨by simp only [regRead, hnone], fun v => by simp only [regWrite, hnone]⟩

/-- Settles O9: a write to such an index is at most a store to the register there, and that register is read-only. -/
theorem readOnlyRegistersIgnoreWrites : Obligations.ReadOnlyRegistersIgnoreWrites := by
  refine fun s => ⟨fun idx v h => ?_, rfl⟩
  have hidx : idx.toNat = 0x001 ∨ (0x008 ≤ idx.toNat ∧ idx.toNat ≤ 0x010) := h.imp_left (congrArg BitVec.toNat)
  have hcmd : idx ≠ 0x000 := by
    rintro rfl
    simp at hidx
  obtain ⟨r, hr, hw⟩ | ⟨-, hw⟩ := regWrite_ne_cmd v hcmd
  · rwa [storeReg_of_readOnly v s (regAt_index hr ▸ hidx)] at hw
  · exact hw

/-! ### The index map -/

/-- Settles O10: the map is evaluated at each index of a register, and names cell `i` of an array at its base plus `i`. -/
theorem indexMapReadsEveryRegister : Obligations.IndexMapReadsEveryRegister := by
  refine fun s hp => ⟨⟨rfl, rfl, rfl, rfl, rfl, rfl, rfl, rfl, rfl, rfl, rfl, rfl, rfl, rfl, rfl, rfl, rfl⟩, ?_, ?_, ?_⟩
  · exact fun i hi => regRead_of_regAt (regAt_fb hp hi)
  · exact fun i hi => regRead_of_regAt (regAt_val hi)
  · exact fun i hi => regRead_of_regAt (regAt_str hi)

/-- Settles O11: each of these writes is a store to what the map names at the index. -/
theorem writesStoreTheLowBitsOfTheWidth : Obligations.WritesStoreTheLowBitsOfTheWidth := by
  refine fun s v hp => ⟨rfl, rfl, rfl, rfl, rfl, rfl, ?_, ?_, ?_⟩
  · exact fun i hi => regWrite_of_regAt v (regAt_fb hp hi) nofun
  · exact fun i hi => regWrite_of_regAt v (regAt_val hi) nofun
  · exact fun i hi => regWrite_of_regAt v (regAt_str hi) nofun

/-! ### Effects of an access -/

/-- Settles O12: such a write is a store to the one register or cell at its index, or nothing at all; no two indices name
one register, and a store done twice is a store done once. -/
theorem accessesHaveNoOtherEffect : Obligations.AccessesHaveNoOtherEffect := by
  refine ⟨fun s idx => rfl, fun s t idx v hidx h => ?_⟩
  obtain ⟨r, hr, hw⟩ | ⟨-, hw⟩ := regWrite_ne_cmd v hidx
  · cases hw.symm.trans h
    have hcmd : r ≠ .cmd := by
      rintro rfl
      exact hidx (BitVec.eq_of_toNat_eq (regAt_index hr).symm)
    refine ⟨fun j hj => regRead_storeReg_other v hr hj, by simp, ?_⟩
    rw [regWrite_of_regAt v ((storeReg_params r v s).symm ▸ hr) hcmd, storeReg_idem]
  · cases hw.symm.trans h
    exact ⟨fun _ _ => rfl, ⟨rfl, rfl, rfl, rfl⟩, hw⟩

/-- A stored cell of a byte array reads back. -/
theorem byteAt_set (b : List Byte) (x : Byte) {i : Nat} (h : i < b.length) : byteAt (b.set i x) i = x := by
  simp [byteAt, List.getD_eq_getElem?_getD, h]

/-- Settles O13: the access answers with the store of O11, and the register or cell stored to is read. -/
theorem writtenValuesReadBack : Obligations.WrittenValuesReadBack := by
  intro s idx v hp ⟨hfb, hval, hstr⟩ _
  obtain ⟨t, ht, -⟩ := regWrite_end idx v s
  refine ⟨t, ht, fun h => ?_, fun h => ?_⟩
  · obtain h | h | h | ⟨hlo, hhi⟩ | ⟨hlo, hhi⟩ := h
    · obtain rfl : idx = 0x002 := BitVec.eq_of_toNat_eq h
      exact regRead_of_regWrite (r := .devAddr) rfl nofun ht
    · obtain rfl : idx = 0x006 := BitVec.eq_of_toNat_eq h
      exact regRead_of_regWrite (r := .valN) rfl nofun ht
    · obtain rfl : idx = 0x007 := BitVec.eq_of_toNat_eq h
      exact regRead_of_regWrite (r := .strLen) rfl nofun ht
    · obtain ⟨i, hi, rfl⟩ := exists_cell_of_range hlo hhi
      exact (regRead_of_regWrite (regAt_fb hp.2.2 hi) nofun ht).trans
        (congrArg zext16 (byteAt_set s.fb (lo8 v) (hfb.symm ▸ hi)))
    · obtain ⟨i, hi, rfl⟩ := exists_cell_of_range hlo hhi
      exact (regRead_of_regWrite (regAt_str hi) nofun ht).trans
        (congrArg zext16 (byteAt_set s.str (lo8 v) (hstr.symm ▸ hi)))
  · obtain h | h | h | ⟨hlo, hhi⟩ := h
    · obtain rfl : idx = 0x003 := BitVec.eq_of_toNat_eq h
      exact regRead_of_regWrite (r := .arg0) rfl nofun ht
    · obtain rfl : idx = 0x004 := BitVec.eq_of_toNat_eq h
      exact regRead_of_regWrite (r := .arg1) rfl nofun ht
    · obtain rfl : idx = 0x005 := BitVec.eq_of_toNat_eq h
      exact regRead_of_regWrite (r := .fbLen) rfl nofun ht
    · obtain ⟨i, hi, rfl⟩ := exists_cell_of_range hlo hhi
      have hi' : i < s.val.length := hval.symm ▸ hi
      rw [regRead_of_regWrite (regAt_val hi) nofun ht]
      simp [readReg, storeReg, List.getD_eq_getElem?_getD, hi']

/-! ### The order of accesses -/

/-- Settles O5: an idle step changes nothing, and no access touches the ones queued after it. -/
theorem accessesAreServedInOrder : Obligations.AccessesAreServedInOrder := by
  refine ⟨fun s => step_idle, fun s a rest hp => ⟨step_serve hp, ?_⟩⟩
  obtain ⟨t, ht, hend⟩ := serve_end a { s with pending := rest }
  exact ⟨t, (step_serve hp).trans ht, (access_keeps hend).2⟩

end Sys2Proof.Machine
end

section
/-! SUPPORT. The command word and the command it names (30_encoding.md R80 to R82): decode and encode are inverse to each other,
the words that name a command, and what a write of any other word to `CMD` does. -/

namespace Sys2Proof.Machine

variable {i : Instr} {w : Byte}

/-! ### Decode and encode -/

/-- The two fields of a command word are the whole word (30_encoding.md R80). -/
theorem familyField_append_opField (w : Byte) : familyField w ++ opField w = w := by
  rw [familyField, opField, BitVec.extractLsb'_append_extractLsb'_eq_extractLsb' (by rfl)]
  exact BitVec.extractLsb'_eq_self

/-- A row of the opcode map is the command's own family and operation. -/
theorem fields_of_decode (h : decode w = .ok i) : familyField w = familyOf i ∧ opField w = opOf i := by
  unfold decode at h
  split at h <;> cases h
  all_goals next hfamily hop => exact ⟨BitVec.eq_of_toNat_eq hfamily, BitVec.eq_of_toNat_eq hop⟩

theorem encode_of_decode (h : decode w = .ok i) : encode i = w := by
  obtain ⟨hfamily, hop⟩ := fields_of_decode h
  rw [encode, ← hfamily, ← hop, familyField_append_opField]

theorem decode_encode (i : Instr) : decode (encode i) = .ok i := by cases i <;> rfl

theorem decode_eq_ok_iff : decode w = .ok i ↔ encode i = w :=
  ⟨encode_of_decode, fun h => h ▸ decode_encode i⟩

/-- Settles O2: a command word is the family and operation that the decoder reads from it. -/
theorem decodeInvertsEncode : Obligations.DecodeInvertsEncode :=
  fun i => ⟨decode_encode i, fun _ h => (encode_of_decode h).symm⟩

/-! ### The words that name a command -/

/-- Every command, in the order of the opcode map (30_encoding.md R81). -/
def commands : List Instr :=
  [.crc16, .crcchk, .encq, .encrd, .encwr, .encwm, .encrid, .encrrd, .encrwr, .encrwm, .decreq, .decrpl, .rxlen]

theorem mem_commands (i : Instr) : i ∈ commands := by cases i <;> decide

/-- Settles O1: the rows of the map are the commands, each beside its own word. -/
theorem commandWordsAreTheOpcodeMap : Obligations.CommandWordsAreTheOpcodeMap := by
  intro w i
  change decode w = .ok i ↔ (w, i) ∈ commands.map fun j => (encode j, j)
  simp [decode_eq_ok_iff, mem_commands]

/-- A word names no command exactly when its value is none of the 13 of the opcode map. -/
theorem names_no_command_iff : (∀ i, encode i ≠ w) ↔ w.toNat ∉ commands.map fun i => (encode i).toNat := by
  simp [mem_commands, BitVec.toNat_eq]

/-- The values of the 13 command words (30_encoding.md R81). -/
theorem commandWords_toNat : (commands.map fun i => (encode i).toNat) =
    [0x01, 0x02, 0x41, 0x42, 0x43, 0x44, 0x81, 0x82, 0x83, 0x84, 0xC1, 0xC2, 0xC3] := rfl

/-- The ranges of 30_encoding.md R82 are the complement of the opcode map. -/
theorem illegalRanges_iff (w : Byte) :
    (w.toNat = 0x00 ∨ (0x03 ≤ w.toNat ∧ w.toNat ≤ 0x40) ∨ (0x45 ≤ w.toNat ∧ w.toNat ≤ 0x80) ∨
      (0x85 ≤ w.toNat ∧ w.toNat ≤ 0xC0) ∨ 0xC4 ≤ w.toNat) ↔ ∀ i, encode i ≠ w := by
  rw [names_no_command_iff, commandWords_toNat]
  simp only [List.mem_cons, List.not_mem_nil, or_false]
  omega

/-! ### The illegal command -/

/-- The illegal-command action writes `STATUS` and nothing else (60_exceptions.md R246). -/
theorem illegalCommand_eq (s : State) : illegalCommand s = { s with status := 0x0080 } := by
  rw [illegalCommand, setStatus, statusWord_cmdErr]
  rfl

/-- Settles O3: the ranges are the words that do not decode, and a write to `CMD` of one runs the illegal-command action. -/
theorem illegalCommandOnlySetsCmdErr : Obligations.IllegalCommandOnlySetsCmdErr := by
  refine fun w s => ⟨illegalRanges_iff w, fun hnone v hv => ?_⟩
  have hdecode : ∀ i, decode (lo8 v) ≠ .ok i := fun i hi => hnone i ((encode_of_decode hi).trans hv)
  rw [regWrite_cmd, runCommand_of_not_command hdecode, illegalCommand_eq]

end Sys2Proof.Machine
end

section
/-! SUPPORT. The CRC read bit by bit, in wire order (40_crc.md R131, 95_test_vectors.md 2.1.3): a byte step takes in the bits of
its byte one at a time, least significant first. Up to 16 bits taken in are one XOR into the running value, so nothing that fits
in the register is lost. From this come the validation law (R134), the affine law (R137 (c)), the changes that are always
detected (R137 (d)), and the two commands of the CRC unit (R135, R136). -/

namespace Sys2Proof.Machine

/-! ### Bits in wire order -/

/-- The bits of a byte in wire order, least significant first. -/
def byteBits (b : Byte) : List Bool := (List.range 8).map b.getLsbD

/-- The bits of a byte sequence in wire order. -/
def wireBits (s : List Byte) : List Bool := s.flatMap byteBits

/-- Up to 16 bits as a value, the first of them its bit 0. -/
def wordOfBits (bs : List Bool) : Word := (BitVec.ofBoolListLE bs).setWidth 16

/-- One shift that takes in a bit at bit 0. -/
def crcFeed (c : Word) (b : Bool) : Word := crcBit (c ^^^ wordOfBits [b])

@[simp] theorem byteBits_length (b : Byte) : (byteBits b).length = 8 := by simp [byteBits]

theorem byteBits_getD (b : Byte) {k : Nat} (h : k < 8) : (byteBits b).getD k false = b.getLsbD k := by
  simp [byteBits, List.getD_eq_getElem?_getD, h]

/-- Bit `k` on the wire is bit `k % 8` of byte `k / 8`. -/
theorem wireBits_getD (s : List Byte) (k : Nat) : (wireBits s).getD k false = (s.getD (k / 8) 0).getLsbD (k % 8) := by
  induction s generalizing k with
  | nil => simp [wireBits]
  | cons b s ih =>
    rw [wireBits, List.flatMap_cons, ← wireBits]
    by_cases h : k < 8
    · rw [List.getD_append _ _ _ _ (by simpa using h), byteBits_getD b h, Nat.div_eq_of_lt h, Nat.mod_eq_of_lt h]
      rfl
    · obtain ⟨j, rfl⟩ := Nat.exists_eq_add_of_le' (Nat.le_of_not_lt h)
      rw [List.getD_append_right _ _ _ _ (by simp), byteBits_length, Nat.add_sub_cancel, ih]
      simp

theorem wordOfBits_getLsbD (bs : List Bool) (k : Nat) :
    (wordOfBits bs).getLsbD k = (decide (k < 16) && bs.getD k false) := by
  simp [wordOfBits]

@[simp] theorem wordOfBits_getElem (bs : List Bool) {k : Nat} (h : k < 16) : (wordOfBits bs)[k] = bs.getD k false := by
  rw [← BitVec.getLsbD_eq_getElem, wordOfBits_getLsbD, decide_eq_true h, Bool.true_and]

@[simp] theorem wordOfBits_nil : wordOfBits [] = 0#16 := by decide

theorem wordOfBits_byteBits (b : Byte) : wordOfBits (byteBits b) = zext16 b := by
  apply BitVec.eq_of_getLsbD_eq
  intro k hk
  rw [wordOfBits_getLsbD, zext16, BitVec.getLsbD_setWidth]
  by_cases h : k < 8
  · rw [byteBits_getD b h]
  · rw [List.getD_eq_default _ _ (by simpa using h), BitVec.getLsbD_of_ge b k (by omega)]

/-- A shift only moves a value whose bit 0 is 0. -/
theorem crcBit_shiftLeft_one {v : Word} (h : v.getLsbD 15 = false) : crcBit (v <<< 1) = v := by
  rw [crcBit, if_neg (by simp)]
  apply BitVec.eq_of_getLsbD_eq
  intro k hk
  obtain hk' | rfl : k < 15 ∨ k = 15 := by omega
  · simp [hk, show 1 + k < 16 by omega]
  · rw [h, BitVec.getLsbD_ushiftRight, BitVec.getLsbD_of_ge _ _ (by omega)]

/-- The first bit stands at bit 0, and the others one place above where they stand without it. -/
theorem wordOfBits_cons (b : Bool) (bs : List Bool) : wordOfBits (b :: bs) = wordOfBits [b] ^^^ wordOfBits bs <<< 1 := by
  apply BitVec.eq_of_getElem_eq
  intro k hk
  cases k with
  | zero => simp
  | succ k => simp

/-! ### Shifts that take in bits -/

/-- Up to 16 bits taken in one at a time are one XOR into the running value before the shifts. -/
theorem foldl_crcFeed (c : Word) {bs : List Bool} (h : bs.length ≤ 16) :
    bs.foldl crcFeed c = crcBits bs.length (c ^^^ wordOfBits bs) := by
  induction bs generalizing c with
  | nil => simp [crcBits]
  | cons b bs ih =>
    rw [List.length_cons] at h
    have htop : (wordOfBits bs).getLsbD 15 = false := by
      rw [wordOfBits_getLsbD, List.getD_eq_default _ _ (by omega), Bool.and_false]
    rw [List.foldl_cons, ih _ (by omega), List.length_cons, crcBits, wordOfBits_cons, ← BitVec.xor_assoc, crcBit_xor,
      crcBit_shiftLeft_one htop, crcFeed]

/-- Bits that are all 0 are shifts alone, however many there are. -/
theorem foldl_crcFeed_of_all_false (c : Word) {bs : List Bool} (h : ∀ k, bs.getD k false = false) :
    bs.foldl crcFeed c = crcBits bs.length c := by
  induction bs generalizing c with
  | nil => rfl
  | cons b bs ih =>
    obtain rfl : b = false := h 0
    have hzero : wordOfBits [false] = 0#16 := by decide
    rw [List.foldl_cons, ih _ fun k => h (k + 1), List.length_cons, crcBits, crcFeed, hzero, BitVec.xor_zero]

theorem crcStep_eq_foldl_crcFeed (c : Word) (b : Byte) : crcStep c b = (byteBits b).foldl crcFeed c := by
  rw [foldl_crcFeed c (by simp), byteBits_length, wordOfBits_byteBits, crcStep]

theorem foldl_crcStep_eq_foldl_crcFeed (c : Word) (s : List Byte) : s.foldl crcStep c = (wireBits s).foldl crcFeed c := by
  rw [wireBits, List.foldl_flatMap]
  congr 1
  funext c b
  exact crcStep_eq_foldl_crcFeed c b

/-! ### The validation law -/

theorem wordOfBits_wireBits_pair (l h : Byte) : wordOfBits (wireBits [l, h]) = le16 l h := by
  apply BitVec.eq_of_getLsbD_eq
  intro k hk
  rw [wordOfBits_getLsbD, wireBits_getD, le16, BitVec.getLsbD_append]
  by_cases hlow : k < 8
  · simp [hk, hlow, Nat.div_eq_of_lt hlow, Nat.mod_eq_of_lt hlow]
  · obtain ⟨j, rfl⟩ := Nat.exists_eq_add_of_le' (Nat.le_of_not_lt hlow)
    have hj : j < 8 := by omega
    simp [hk, Nat.div_eq_of_lt hj, Nat.mod_eq_of_lt hj]

/-- Two bytes are taken in as the 16-bit value they are, low byte first. -/
theorem crcStep_crcStep (c : Word) (l h : Byte) : crcStep (crcStep c l) h = crcBits 16 (c ^^^ le16 l h) := by
  have hfeed := foldl_crcFeed c (bs := wireBits [l, h]) (by simp [wireBits])
  rw [wordOfBits_wireBits_pair, ← foldl_crcStep_eq_foldl_crcFeed] at hfeed
  simpa [wireBits] using hfeed

/-- The residue after two more bytes is 0 exactly when they are the CRC before them, low byte first. -/
theorem crcStep_crcStep_eq_zero_iff {c : Word} {l h : Byte} : crcStep (crcStep c l) h = 0 ↔ c = le16 l h := by
  rw [crcStep_crcStep]
  refine ⟨fun h0 => BitVec.xor_eq_zero_iff.1 (crcBits_eq_zero h0), ?_⟩
  rintro rfl
  simp

theorem le16_lo8_hi8 (v : Word) : le16 (lo8 v) (hi8 v) = v := be16_hi8_lo8 v

@[simp] theorem crc16_appendCrc (body : List Byte) : crc16 (appendCrc body) = 0 := by
  rw [appendCrc, crc16_append]
  exact crcStep_crcStep_eq_zero_iff.2 (le16_lo8_hi8 _).symm

/-- The division form of the two CRC bytes (30_encoding.md R84) is the model's. -/
theorem littleEndian_eq (c : Word) : Claims.littleEndian c = [lo8 c, hi8 c] := by
  have hlo : BitVec.ofNat 8 (c.toNat % 256) = lo8 c := BitVec.eq_of_toNat_eq (by simp [lo8_toNat])
  have hhi : BitVec.ofNat 8 (c.toNat / 256) = hi8 c := BitVec.eq_of_toNat_eq (by
    have := c.isLt
    rw [BitVec.toNat_ofNat, hi8_toNat]
    omega)
  rw [Claims.littleEndian, hlo, hhi]

theorem framed_eq_appendCrc (body : List Byte) : Claims.framed body = appendCrc body := by
  rw [Claims.framed, littleEndian_eq, appendCrc]

theorem validate_iff (f : List Byte) : validate f = true ↔ crc16 f = 0 := by simp [validate]

theorem validate_eq_false_iff (f : List Byte) : validate f = false ↔ crc16 f ≠ 0 := by simp [validate]

/-- Settles O15: the sequence with its CRC is the frame of 40_crc.md R133, and its last two bytes are the CRC before them. -/
theorem appendedCrcValidates : Obligations.AppendedCrcValidates :=
  ⟨validate_iff, fun s => (congrArg crc16 (framed_eq_appendCrc s)).trans (crc16_appendCrc s)⟩

/-! ### The affine law -/

/-- The byte steps over two sequences of one length are linear over XOR. -/
theorem foldl_crcStep_xor (c d : Word) {s t : List Byte} (h : s.length = t.length) :
    (List.zipWith (· ^^^ ·) s t).foldl crcStep (c ^^^ d) = s.foldl crcStep c ^^^ t.foldl crcStep d := by
  induction s generalizing c d t with
  | nil => rw [List.length_eq_zero_iff.1 h.symm]; rfl
  | cons x s ih =>
    cases t with
    | nil => cases h
    | cons y t =>
      rw [List.zipWith_cons_cons, List.foldl_cons, crcStep_xor, ih _ _ (Nat.succ.inj h)]
      rfl

/-- The CRCs of two sequences of one length differ by what their difference makes of a running value 0. -/
theorem crc16_xor_crc16 {s t : List Byte} (h : s.length = t.length) :
    crc16 s ^^^ crc16 t = (List.zipWith (· ^^^ ·) s t).foldl crcStep 0 := by
  rw [crc16, crc16, ← foldl_crcStep_xor _ _ h, BitVec.xor_self]
  rfl

theorem zipWith_xor_zeros {s : List Byte} {n : Nat} (h : s.length = n) :
    List.zipWith (· ^^^ ·) s (List.replicate n 0) = s := by
  subst h
  induction s with
  | nil => rfl
  | cons x s ih => rw [List.length_cons, List.replicate_succ, List.zipWith_cons_cons, ih]; simp

/-- Settles O16: both sides are what the difference of the sequences makes of a running value 0. -/
theorem crcIsAffine : Obligations.CrcIsAffine := by
  intro s t h
  have hlen : (List.zipWith (· ^^^ ·) s t).length = s.length := by simp [← h]
  rw [crc16_xor_crc16 h, crc16_xor_crc16 (by rw [hlen, List.length_replicate]), zipWith_xor_zeros hlen]

/-! ### Changes that are always detected -/

/-- Equal bytes after a difference in the running value never cancel it. -/
theorem foldl_crcStep_injective (s : List Byte) : Function.Injective (s.foldl crcStep) := by
  induction s with
  | nil => exact fun _ _ h => h
  | cons x s ih => exact fun _ _ h => crcStep_left_injective (ih h)

theorem crcBits_injective (n : Nat) : Function.Injective (crcBits n) := by
  intro c d h
  have hxor : crcBits n (c ^^^ d) = 0 := by rw [crcBits_xor, h, BitVec.xor_self]; rfl
  exact BitVec.xor_eq_zero_iff.1 (crcBits_eq_zero hxor)

theorem zext16_injective : Function.Injective zext16 := by
  intro x y h
  have hval := congrArg BitVec.toNat h
  rw [zext16_toNat, zext16_toNat] at hval
  exact BitVec.eq_of_toNat_eq hval

theorem crcStep_right_injective (c : Word) : Function.Injective (crcStep c) :=
  fun _ _ h => zext16_injective ((BitVec.xor_right_inj c).1 (crcBits_injective 8 h))

/-- Settles O17: the step over the changed byte gives another value, and the equal bytes after it keep the two apart. -/
theorem singleByteChangeIsDetected : Obligations.SingleByteChangeIsDetected := by
  intro pre post x y hxy hx
  rw [validate_iff, crc16_append] at hx
  rw [validate_eq_false_iff, crc16_append]
  intro hy
  exact hxy (crcStep_right_injective _ (foldl_crcStep_injective post (hx.trans hy.symm)))

/-- A window of up to 16 bits with zeros on both sides leaves a running value of 0 at 0 only when it is 0 itself: the bits
before it change nothing, those in it are one XOR into the register, and the shifts after it lose nothing. -/
theorem wordOfBits_window_eq_zero {pre w post : List Bool} (hpre : ∀ k, pre.getD k false = false) (hw : w.length ≤ 16)
    (hpost : ∀ k, post.getD k false = false) (h : (pre ++ (w ++ post)).foldl crcFeed 0#16 = 0) : wordOfBits w = 0 := by
  rw [List.foldl_append, List.foldl_append, foldl_crcFeed_of_all_false _ hpre, crcBits_zero, foldl_crcFeed _ hw,
    BitVec.zero_xor, foldl_crcFeed_of_all_false _ hpost] at h
  exact crcBits_eq_zero (crcBits_eq_zero h)

/-- Bits that are 0 outside a window of 16, and leave a running value of 0 at 0, are 0 inside it too. -/
theorem all_false_of_burst {bs : List Bool} {p : Nat} (hout : ∀ k, k < p ∨ p + 16 ≤ k → bs.getD k false = false)
    (h : bs.foldl crcFeed 0#16 = 0) (k : Nat) : bs.getD k false = false := by
  by_cases hk : k < p ∨ p + 16 ≤ k
  · exact hout k hk
  obtain ⟨j, rfl⟩ := Nat.exists_eq_add_of_le (show p ≤ k by omega)
  have hbefore (i : Nat) : (bs.take p).getD i false = false := by
    by_cases hi : i < p
    · simpa [List.getD_eq_getElem?_getD, hi] using hout i (.inl hi)
    · exact List.getD_eq_default _ _ (by simp; omega)
  have hafter (i : Nat) : ((bs.drop p).drop 16).getD i false = false := by
    simpa [List.getD_eq_getElem?_getD, Nat.add_assoc] using hout (p + 16 + i) (.inr (by omega))
  have hword : wordOfBits ((bs.drop p).take 16) = 0 := by
    refine wordOfBits_window_eq_zero hbefore (by simp) hafter ?_
    rwa [List.take_append_drop, List.take_append_drop]
  have hbit := congrArg (BitVec.getLsbD · j) hword
  have hj : j < 16 := by omega
  simpa [List.getD_eq_getElem?_getD, hj] using hbit

/-- Bit `k` on the wire of the difference of two sequences of one length. -/
theorem wireBits_zipWith_xor_getD {f g : List Byte} (h : f.length = g.length) (k : Nat) :
    (wireBits (List.zipWith (· ^^^ ·) f g)).getD k false = ((wireBits f).getD k false ^^ (wireBits g).getD k false) := by
  have hbyte : (List.zipWith (· ^^^ ·) f g).getD (k / 8) 0 = f.getD (k / 8) 0 ^^^ g.getD (k / 8) 0 := by
    by_cases hk : k / 8 < f.length
    · simp [List.getD_eq_getElem?_getD, hk, h ▸ hk]
    · rw [List.getD_eq_default _ _ (by simp; omega), List.getD_eq_default _ _ (by omega),
        List.getD_eq_default _ _ (by omega), BitVec.xor_self]
      rfl
  rw [wireBits_getD, wireBits_getD, wireBits_getD, hbyte, BitVec.getLsbD_xor]

/-- Two sequences of one length with the same bits on the wire are the same. -/
theorem eq_of_wireBits_getD {f g : List Byte} (hlen : f.length = g.length)
    (h : ∀ k, (wireBits f).getD k false = (wireBits g).getD k false) : f = g := by
  refine List.ext_getElem hlen fun i hf hg => BitVec.eq_of_getLsbD_eq fun j hj => ?_
  have hbit := h (8 * i + j)
  rw [wireBits_getD, wireBits_getD, show (8 * i + j) / 8 = i by omega, show (8 * i + j) % 8 = j by omega,
    List.getD_eq_getElem _ _ hf, List.getD_eq_getElem _ _ hg] at hbit
  exact hbit

/-- Settles O18: were both CRCs 0, the difference would leave a running value 0 at 0, and so have no bit set. -/
theorem burstUpToSixteenBitsIsDetected : Obligations.BurstUpToSixteenBitsIsDetected := by
  intro f g p hlen hne hout hf
  rw [validate_iff] at hf
  rw [validate_eq_false_iff]
  intro hg
  have hzero : (wireBits (List.zipWith (· ^^^ ·) f g)).foldl crcFeed 0#16 = 0 := by
    rw [← foldl_crcStep_eq_foldl_crcFeed, ← BitVec.ofNat_eq_ofNat, ← crc16_xor_crc16 hlen, hf, hg]
    rfl
  have hdiff : ∀ k, (wireBits (List.zipWith (· ^^^ ·) f g)).getD k false = false := by
    refine all_false_of_burst (p := p) (fun k hk => ?_) hzero
    rw [wireBits_zipWith_xor_getD hlen, wireBits_getD, wireBits_getD, hout k hk, Bool.xor_self]
  refine hne (eq_of_wireBits_getD hlen fun k => ?_)
  simpa only [wireBits_zipWith_xor_getD hlen, bne_eq_false_iff_eq] using hdiff k

/-! ### The commands of the CRC unit -/

/-- `CRC16`, with the check of the buffer's bound as its rule writes it (40_crc.md R135). -/
theorem exec_crc16 (s : State) : exec .crc16 s = .next
    (if s.params.fbSize.toNat < s.fbLen.toNat then { s with status := 0x0004#16 }
     else { s with crc := crc16 (frame s), status := 0x0001#16 }) := by
  rw [exec, execCrc16]
  by_cases h : bufferInBound s
  · rw [if_pos h, if_neg (Nat.not_lt.2 h), statusWord_ok]
  · rw [if_neg h, if_pos (Nat.lt_of_not_le h), setStatus, statusWord_lenErr]

theorem statusWord_crcchkVerdict (s : State) : statusWord [crcchkVerdict s] =
    if s.fbLen.toNat < 2 then 0x0004#16 else if crc16 (frame s) = 0 then 0x0001#16 else 0x0002#16 := by
  simp only [crcchkVerdict, validate_iff]
  split_ifs <;> simp

/-- `CRCCHK`, with the check of the buffer's bound as its rule writes it (40_crc.md R136). -/
theorem exec_crcchk (s : State) : exec .crcchk s = .next
    (if s.params.fbSize.toNat < s.fbLen.toNat then { s with status := 0x0004#16 }
     else { s with
      crc := crc16 (frame s)
      status := if s.fbLen.toNat < 2 then 0x0004#16 else if crc16 (frame s) = 0 then 0x0001#16 else 0x0002#16 }) := by
  rw [exec, execCrcchk]
  by_cases h : bufferInBound s
  · rw [if_pos h, if_neg (Nat.not_lt.2 h), statusWord_crcchkVerdict]
  · rw [if_neg h, if_pos (Nat.lt_of_not_le h), setStatus, statusWord_lenErr]

/-- One byte is too short to undo the initial value. -/
theorem crc16_singleton_ne_zero (x : Byte) : crc16 [x] ≠ 0 := by
  intro h
  have hval : 0xFFFF#16 = zext16 x := BitVec.xor_eq_zero_iff.1 (crcBits_eq_zero h)
  have hnat : 0xFFFF = x.toNat := (congrArg BitVec.toNat hval).trans (zext16_toNat x)
  have := x.isLt
  omega

/-- The two bytes with residue 0 are the CRC of the empty sequence, the initial value (40_crc.md R132, R136). -/
theorem crc16_pair_eq_zero_iff (x y : Byte) : crc16 [x, y] = 0 ↔ x = 0xFF ∧ y = 0xFF := by
  have hiff : crc16 [x, y] = 0 ↔ 0xFFFF#16 = le16 x y := crcStep_crcStep_eq_zero_iff
  have hnat : (le16 x y).toNat = y.toNat * 256 + x.toNat := be16_toNat y x
  have := x.isLt
  have := y.isLt
  rw [hiff, BitVec.toNat_eq, BitVec.toNat_eq, BitVec.toNat_eq, hnat]
  simp only [BitVec.ofNat_eq_ofNat, BitVec.toNat_ofNat]
  omega

/-- Settles O19: the equation of the command, the check values evaluated, and the validation law for the frame of a body. -/
theorem crc16WritesTheCrcOfTheBuffer : Obligations.Crc16WritesTheCrcOfTheBuffer :=
  ⟨rfl, exec_crc16, crc16_nil, by decide +kernel, by decide +kernel,
    fun body => framed_eq_appendCrc body ▸ crc16_appendCrc body, by decide +kernel⟩

/-- Settles O20: the equation of the command, and the residues of the buffers too short to hold a body. -/
theorem crcchkValidatesTheBuffer : Obligations.CrcchkValidatesTheBuffer :=
  ⟨rfl, exec_crcchk, crc16_nil, crc16_singleton_ne_zero, crc16_pair_eq_zero_iff⟩

end Sys2Proof.Machine
end

section
/-! SUPPORT. The encoders (41_encoder.md R150 to R160), each as one equation with the body it emits, and the bodies: which byte
stands where, and how long they are. -/

namespace Sys2Proof.Machine

variable {s t : State}

/-! ### The read-count clamp -/

theorem one_le_and_le_maxReadCount_iff {c : Word} :
    (1 ≤ c ∧ c ≤ Config.maxReadCount) ↔ (1 ≤ c.toNat ∧ c.toNat ≤ 125) := by
  simp [BitVec.le_def, Config.maxReadCount]

theorem clamp_of_served {c : Word} (h : 1 ≤ c.toNat ∧ c.toNat ≤ 125) : clamp c = c :=
  if_pos (one_le_and_le_maxReadCount_iff.2 h)

theorem clamp_of_not_served {c : Word} (h : c.toNat = 0 ∨ 125 < c.toNat) : clamp c = 1 :=
  if_neg (mt one_le_and_le_maxReadCount_iff.1 (by omega))

theorem clamp_served (c : Word) : 1 ≤ (clamp c).toNat ∧ (clamp c).toNat ≤ 125 := by
  by_cases h : 1 ≤ c.toNat ∧ c.toNat ≤ 125
  · rwa [clamp_of_served h]
  · rw [clamp_of_not_served (by omega)]
    decide

@[simp] theorem clamp_clamp (c : Word) : clamp (clamp c) = clamp c := clamp_of_served (clamp_served c)

/-- Settles O29: the two cases of the clamp, and 1 is in the range it serves. -/
theorem clampServesOneToOneHundredTwentyFive : Obligations.ClampServesOneToOneHundredTwentyFive :=
  fun c => ⟨clamp_of_served, clamp_of_not_served, clamp_served c⟩

/-! ### The bodies -/

/-- The body of two 16-bit fields that `ENCRD`, `ENCWR`, `ENCRWR` and `ENCRWM` write (30_encoding.md R87, R88, R92, R93). -/
def twoFieldBody (addr fc : Byte) (v0 v1 : Word) : List Byte := [addr, fc] ++ wireBytes v0 ++ wireBytes v1

/-- A body that an encoder may emit in state `s` with function code `fc`: with its CRC it fits every legal buffer
(30_encoding.md R83, 41_encoder.md R150, R163). -/
structure Encodable (s : State) (fc : Byte) (body : List Byte) : Prop where
  addr : byteAt body 0 = s.devAddr
  code : byteAt body 1 = fc
  min : 2 ≤ body.length
  max : body.length ≤ 261

theorem queryBody_encodable (s : State) (fc : Byte) : Encodable s fc [s.devAddr, fc] := ⟨rfl, rfl, by simp, by simp⟩

theorem twoFieldBody_encodable (s : State) (fc : Byte) (v0 v1 : Word) :
    Encodable s fc (twoFieldBody s.devAddr fc v0 v1) := ⟨rfl, rfl, by simp [twoFieldBody], by simp [twoFieldBody]⟩

theorem encwmBody_length (s : State) : (encwmBody s).length = 7 + 2 * (values s).length := by
  simp [encwmBody]; omega

theorem encridBody_length (s : State) : (encridBody s).length = 5 + (string s).length := by
  simp [encridBody]; omega

theorem encrrdBody_length (s : State) : (encrrdBody s).length = 3 + 2 * (values s).length := by
  simp [encrrdBody]; omega

theorem encwmBody_encodable (hn : s.valN.toNat ≤ 127) : Encodable s s.params.fcWritem (encwmBody s) := by
  have := values_length_le s
  exact ⟨rfl, rfl, by rw [encwmBody_length]; omega, by rw [encwmBody_length]; omega⟩

theorem encridBody_encodable (hn : s.strLen.toNat ≤ 253) : Encodable s s.params.fcQuery (encridBody s) := by
  have := string_length_le s
  exact ⟨rfl, rfl, by rw [encridBody_length]; omega, by rw [encridBody_length]; omega⟩

theorem encrrdBody_encodable (hn : s.valN.toNat ≤ 125) : Encodable s s.params.fcRead (encrrdBody s) := by
  have := values_length_le s
  exact ⟨rfl, rfl, by rw [encrrdBody_length]; omega, by rw [encrrdBody_length]; omega⟩

/-! ### The equations of the commands -/

theorem eq_zext16_iff {v : Word} {b : Byte} : v = zext16 b ↔ v.toNat = b.toNat := by
  rw [BitVec.toNat_eq, zext16_toNat]

theorem exec_encq (s : State) : exec .encq s = .next (emit [s.devAddr, s.params.fcQuery] [] s) := rfl

theorem exec_encrd (s : State) : exec .encrd s = .next (emit (twoFieldBody s.devAddr s.params.fcRead s.arg0 (clamp s.arg1))
    (bitIf (clamp s.arg1 ≠ s.arg1) .clamped) s) := rfl

theorem exec_encwr (s : State) :
    exec .encwr s = .next (emit (twoFieldBody s.devAddr s.params.fcWrite s.arg0 s.arg1) [] s) := rfl

theorem exec_encrwr (s : State) :
    exec .encrwr s = .next (emit (twoFieldBody s.devAddr s.params.fcWrite s.arg0 s.arg1) [] s) := rfl

theorem exec_encrwm (s : State) :
    exec .encrwm s = .next (emit (twoFieldBody s.devAddr s.params.fcWritem s.arg0 s.arg1) [] s) := rfl

/-- `ENCWM`, its two checks as one (41_encoder.md R156). -/
theorem exec_encwm (s : State) : exec .encwm s = if 127 < s.valN.toNat ∨ s.arg1.toNat ≠ s.valN.toNat
    then .next (usageError s) else .next (emit (encwmBody s) [] s) := by
  have hcheck : s.arg1 ≠ zext16 s.valN ↔ s.arg1.toNat ≠ s.valN.toNat := not_congr eq_zext16_iff
  rw [exec, execEncwm, Config.valCap]
  by_cases hcap : 127 < s.valN.toNat
  · rw [if_pos hcap, if_pos (.inl hcap)]
  · simp only [hcap, hcheck, if_false, false_or]

theorem exec_encrid (s : State) : exec .encrid s = if 253 < s.strLen.toNat
    then .next (usageError s) else .next (emit (encridBody s) [] s) := rfl

theorem exec_encrrd (s : State) : exec .encrrd s = if s.valN.toNat < 1 ∨ 125 < s.valN.toNat
    then .next (usageError s) else .next (emit (encrrdBody s) [] s) := rfl

/-- An encoder with a check that ends with `OK` has passed it. -/
theorem passed_of_ok {c : Prop} [Decidable c] {body : List Byte}
    (h : (if c then .next (usageError s) else .next (emit body [] s) : Host.Outcome State Fault Refusal) = .next t)
    (hok : t.status.getLsbD 0 = true) : ¬ c ∧ t = emit body [] s := by
  by_cases hc : c
  · rw [if_pos hc] at h
    cases h
    simp at hok
  · rw [if_neg hc] at h
    cases h
    exact ⟨hc, rfl⟩

/-! ### The frame in the words of the statements -/

@[simp] theorem hi8_zext16 (b : Byte) : hi8 (zext16 b) = 0 := by
  have := b.isLt
  exact BitVec.eq_of_toNat_eq (by rw [hi8_toNat, zext16_toNat]; simp; omega)

@[simp] theorem lo8_zext16 (b : Byte) : lo8 (zext16 b) = b := by
  have := b.isLt
  exact BitVec.eq_of_toNat_eq (by rw [lo8_toNat, zext16_toNat]; omega)

theorem wireBytes_zext16 (b : Byte) : wireBytes (zext16 b) = [0, b] := by simp [wireBytes]

theorem bigEndian_eq (v : Word) : Claims.bigEndian v = wireBytes v := by
  have hswap : Claims.bigEndian v = (Claims.littleEndian v).reverse := rfl
  rw [hswap, littleEndian_eq]
  rfl

theorem flatMap_bigEndian (vs : List Word) : vs.flatMap Claims.bigEndian = valuesToWire vs :=
  congrArg vs.flatMap (funext bigEndian_eq)

theorem withFrame_eq_emit (body : List Byte) (extra : List StatusBit) (s : State) :
    Claims.withFrame body (statusWord (.ok :: extra)) s = emit body extra s := by
  rw [Claims.withFrame, framed_eq_appendCrc, emit, storeAtFront, appendCrc_length]

/-- The frame of an encoder that sets `OK` alone. -/
theorem withFrame_ok (body : List Byte) (s : State) : Claims.withFrame body 0x0001 s = emit body [] s :=
  withFrame_eq_emit body [] s

/-- The frame of an encoder that has clamped its count. -/
theorem withFrame_clamped (body : List Byte) (s : State) : Claims.withFrame body 0x0101 s = emit body [.clamped] s :=
  withFrame_eq_emit body [.clamped] s

/-- A usage error in the words of the statements (41_encoder.md R152). -/
theorem withUsageError_eq (s : State) : Claims.withUsageError s = usageError s := rfl

/-! ### Each encoder -/

/-- Settles O21: the equation of `ENCQ` holds in every state. -/
theorem encqEncodesAQuery : Obligations.EncqEncodesAQuery :=
  ⟨rfl, fun s => by rw [exec_encq, withFrame_ok]⟩

/-- Settles O22: a served count is its own clamp, and any other is clamped to 1 and so flagged. -/
theorem encrdEncodesAReadWithTheCountClamped : Obligations.EncrdEncodesAReadWithTheCountClamped := by
  refine ⟨rfl, fun s => ⟨fun h => ?_, fun h => ?_⟩⟩
  · have hbits : bitIf (clamp s.arg1 ≠ s.arg1) .clamped = [] := if_neg (not_not.2 (clamp_of_served h))
    rw [exec_encrd, hbits, clamp_of_served h, withFrame_ok, bigEndian_eq, bigEndian_eq, twoFieldBody]
  · have hne : clamp s.arg1 ≠ s.arg1 := by
      intro heq
      have := clamp_served s.arg1
      rw [heq] at this
      omega
    have hbits : bitIf (clamp s.arg1 ≠ s.arg1) .clamped = [.clamped] := if_pos hne
    have hone : wireBytes 1 = [0, 1] := by decide
    rw [exec_encrd, hbits, clamp_of_not_served h, withFrame_clamped, bigEndian_eq, twoFieldBody, hone]

/-- Settles O23: the fields are the two argument registers as they stand. -/
theorem encwrEncodesAWrite : Obligations.EncwrEncodesAWrite :=
  ⟨rfl, fun s => by rw [exec_encwr, withFrame_ok, bigEndian_eq, bigEndian_eq, twoFieldBody]⟩

/-- Settles O24: the count of at most 127 has high byte 0. -/
theorem encwmEncodesAWriteMultiple : Obligations.EncwmEncodesAWriteMultiple := by
  refine ⟨rfl, fun s => ⟨fun h => ?_, fun h => ?_⟩⟩
  · have hbody : [s.devAddr, s.params.fcWritem] ++ Claims.bigEndian s.arg0
        ++ [0, s.valN, BitVec.ofNat 8 (2 * s.valN.toNat)] ++ (s.val.take s.valN.toNat).flatMap Claims.bigEndian
        = encwmBody s := by
      rw [bigEndian_eq, flatMap_bigEndian, encwmBody, wireBytes_zext16, values]
      simp
    rw [exec_encwm, if_neg (by omega), hbody, withFrame_ok]
  · rw [exec_encwm, if_pos h, withUsageError_eq]

/-- Settles O25: the check of the length, and the byte count as one byte. -/
theorem encridEncodesAnIdentification : Obligations.EncridEncodesAnIdentification := by
  refine ⟨rfl, fun s => ⟨fun h => ?_, fun h => ?_⟩⟩
  · have hcount : s.strLen + 2 = BitVec.ofNat 8 (s.strLen.toNat + 2) := BitVec.eq_of_toNat_eq (by simp)
    rw [exec_encrid, if_neg (by omega), withFrame_ok, hcount]
    rfl
  · rw [exec_encrid, if_pos h, withUsageError_eq]

/-- Settles O26: the check of the count, and the values as they go on the wire. -/
theorem encrrdEncodesAReadReply : Obligations.EncrrdEncodesAReadReply := by
  refine ⟨rfl, fun s => ⟨fun h => ?_, fun h => ?_⟩⟩
  · rw [exec_encrrd, if_neg (by omega), withFrame_ok, flatMap_bigEndian]
    rfl
  · rw [exec_encrrd, if_pos (by omega), withUsageError_eq]

/-- Settles O27: the two commands have one equation. -/
theorem encrwrEchoesTheWrite : Obligations.EncrwrEchoesTheWrite :=
  ⟨rfl, fun s => ⟨by rw [exec_encrwr, withFrame_ok, bigEndian_eq, bigEndian_eq, twoFieldBody], exec_encrwr s⟩⟩

/-- Settles O28: the equation of `ENCRWM` has no check. -/
theorem encrwmEchoesAddressAndCount : Obligations.EncrwmEchoesAddressAndCount :=
  ⟨rfl, fun s => by rw [exec_encrwm, withFrame_ok, bigEndian_eq, bigEndian_eq, twoFieldBody]⟩

end Sys2Proof.Machine
end

section
/-! SUPPORT. What holds of every encoder (41_encoder.md R150, R152, R161 to R163): the frame, the usage error, the lengths, the
operands, and the validation of the frame. -/

namespace Sys2Proof.Machine

variable {i : Instr} {s t : State}

/-- An encoder that ends with `OK` has emitted a body. -/
theorem emitted_of_ok (h : EncoderEnd s t) (hok : t.status.getLsbD 0 = true) :
    ∃ body extra, t = emit body extra s ∧ byteAt body 0 = s.devAddr ∧ 2 ≤ body.length ∧ body.length ≤ 261 ∧
      (extra = [] ∨ extra = [.clamped]) := by
  cases h with
  | frame body extra haddr hmin hmax hextra => exact ⟨body, extra, rfl, haddr, hmin, hmax, hextra⟩
  | usage => simp at hok

theorem emit_fbLen_toNat {body : List Byte} (hmax : body.length ≤ 261) (extra : List StatusBit) (s : State) :
    (emit body extra s).fbLen.toNat = body.length + 2 := by simp; omega

/-- Settles O30: a state with `OK` is one that `emit` leaves. -/
theorem encodersStoreOnlyTheirFrame : Obligations.EncodersStoreOnlyTheirFrame := by
  intro i s t hi h hok
  obtain ⟨body, extra, rfl, haddr, hmin, hmax, hextra⟩ := emitted_of_ok (encoderEnd_of_exec hi h) hok
  have hlen := emit_fbLen_toNat hmax extra s
  have hframe : frame (emit body extra s) = Claims.framed body := by
    rw [frame_emit _ _ _ (by omega), framed_eq_appendCrc]
  refine ⟨⟨body, haddr, hmin, hlen, hframe, rfl⟩, fun k hk => ?_, rfl, statusWord_ok_extra hextra⟩
  exact storeAtFront_getD_kept _ _ _ (by rw [appendCrc_length]; omega)

theorem no_usageErr_of_mem {l : List Word} (hl : (l.all fun w => !w.getLsbD 6) = true) {w : Word} (hw : w ∈ l) :
    ¬ w.getLsbD 6 = true := by
  simpa using List.all_eq_true.1 hl w hw

theorem no_usageErr_of_ok {extra : List StatusBit} (h : extra = [] ∨ extra = [.clamped]) :
    ¬ (statusWord (.ok :: extra)).getLsbD 6 = true := by
  obtain hw | hw := statusWord_ok_extra h <;> simp [hw]

/-- Only an encoder's usage error sets `USAGE_ERR` (41_encoder.md R152). -/
theorem eq_usageError_of_status (h : exec i s = .next t) (h6 : t.status.getLsbD 6 = true) : t = usageError s := by
  obtain hi | hi | hi | rfl := command_classes i
  · exact absurd h6 (no_usageErr_of_mem (by decide) (crcUnit_status (crcUnitEnd_of_exec hi h)))
  · cases encoderEnd_of_exec hi h with
    | frame body extra _ _ _ hextra =>
      exact absurd h6 (no_usageErr_of_ok hextra)
    | usage => rfl
  · cases decoderEnd_of_exec hi h with
    | result d hd =>
      exact absurd h6 (no_usageErr_of_ok hd.extra)
    | sentinel err herr =>
      exact absurd h6 (no_usageErr_of_mem (by decide) (statusWord_decodeError herr))
  · exact absurd h6 (no_usageErr_of_mem (by decide) (rxlen_status (rxlenEnd_of_exec h)))

/-- Settles O31: a state with `USAGE_ERR` is one that `usageError` leaves. -/
theorem usageErrorWritesNoFrame : Obligations.UsageErrorWritesNoFrame := by
  intro i s t h h6
  obtain rfl := eq_usageError_of_status h h6
  exact ⟨rfl, frame_usageError s, fun j => (exec_end j _).imp fun _ hj => hj.1⟩

/-! ### The lengths (41_encoder.md R163) -/

theorem encwm_fbLen (h : exec .encwm s = .next t) (hok : t.status.getLsbD 0 = true) (hm : Memory.wf s) :
    s.valN.toNat ≤ 127 ∧ t.fbLen.toNat = 9 + 2 * s.valN.toNat := by
  obtain ⟨hpassed, rfl⟩ := passed_of_ok ((exec_encwm s).symm.trans h) hok
  have hn : s.valN.toNat ≤ 127 := by omega
  rw [emit_fbLen_toNat (encwmBody_encodable hn).max, encwmBody_length, values_length s hm hn]
  omega

theorem encrid_fbLen (h : exec .encrid s = .next t) (hok : t.status.getLsbD 0 = true) (hm : Memory.wf s) :
    s.strLen.toNat ≤ 253 ∧ t.fbLen.toNat = 7 + s.strLen.toNat := by
  obtain ⟨hpassed, rfl⟩ := passed_of_ok ((exec_encrid s).symm.trans h) hok
  have hn : s.strLen.toNat ≤ 253 := by omega
  rw [emit_fbLen_toNat (encridBody_encodable hn).max, encridBody_length, string_length s hm hn]
  omega

theorem encrrd_fbLen (h : exec .encrrd s = .next t) (hok : t.status.getLsbD 0 = true) (hm : Memory.wf s) :
    (1 ≤ s.valN.toNat ∧ s.valN.toNat ≤ 125) ∧ t.fbLen.toNat = 5 + 2 * s.valN.toNat := by
  obtain ⟨hpassed, rfl⟩ := passed_of_ok ((exec_encrrd s).symm.trans h) hok
  have hn : s.valN.toNat ≤ 125 := by omega
  rw [emit_fbLen_toNat (encrrdBody_encodable hn).max, encrrdBody_length, values_length s hm (by omega)]
  omega

/-- Settles O32: the body of each encoder with its two CRC bytes, and the bound common to all of them. -/
theorem encodersWriteFramesOfTheTableLengths : Obligations.EncodersWriteFramesOfTheTableLengths := by
  intro i s t hi h hok
  refine ⟨?_, ?_, ?_, ?_, ?_, ?_⟩
  · rintro rfl
    cases h
    rfl
  · rintro (rfl | rfl | rfl | rfl) <;> (cases h; rfl)
  · rintro rfl hm
    have := encwm_fbLen h hok hm
    omega
  · rintro rfl hm
    have := encrid_fbLen h hok hm
    omega
  · rintro rfl hm
    have := encrrd_fbLen h hok hm
    omega
  · obtain ⟨body, extra, rfl, -, -, hmax, -⟩ := emitted_of_ok (encoderEnd_of_exec hi h) hok
    rw [emit_fbLen_toNat hmax]
    omega

/-- Settles O33: an encoder ends in the same way wherever its operands are the same, and no end of it writes an operand
array. -/
theorem encodersReadOnlyTheirOperands : Obligations.EncodersReadOnlyTheirOperands := by
  intro i s s' t t' hi hin h h'
  have houtputs : SameOutputs i t t' := encoder_outputs hi (encoder_sameEnd hi hin h h')
  have hkept : t.valN = s.valN ∧ t.val = s.val ∧ t.strLen = s.strLen ∧ t.str = s.str := by
    cases encoderEnd_of_exec hi h <;> exact ⟨rfl, rfl, rfl, rfl⟩
  obtain rfl | rfl | rfl | rfl | rfl | rfl | rfl | rfl := isEncoder_iff.1 hi <;> exact ⟨houtputs, hkept⟩

/-- Settles O34: the frame is within the buffer, at least 4 bytes long, and has residue 0. -/
theorem encodedFramesValidate : Obligations.EncodedFramesValidate := by
  intro i s t hi hp h hok
  obtain ⟨body, extra, rfl, -, hmin, hmax, -⟩ := emitted_of_ok (encoderEnd_of_exec hi h) hok
  have hlen := emit_fbLen_toNat hmax extra s
  have hbound : ¬ (emit body extra s).params.fbSize.toNat < (emit body extra s).fbLen.toNat := by
    obtain ⟨-, -, hsize, -⟩ := hp
    rw [hlen, emit_params]
    omega
  have hres : crc16 (frame (emit body extra s)) = 0 := by rw [frame_emit _ _ _ (by omega), crc16_appendCrc]
  refine ⟨_, exec_crcchk _, ?_, ?_⟩
  · rw [if_neg hbound, hlen, if_neg (by omega), if_pos hres]
    rfl
  · rw [if_neg hbound]
    exact hres

end Sys2Proof.Machine
end

section
/-! SUPPORT. An encoder and then the decoder of its direction (41_encoder.md R162): the decoder's checks all pass on the frame
just written, so what it decodes is the fields of the body. -/

namespace Sys2Proof.Machine

variable {i : Instr} {s : State} {p : Params} {b : List Byte} {n : Nat}

/-! ### The dispatch of the decoders on the function code -/

/-- A `Query` request: its layout length and its fields (42_decoder.md R194, R195). -/
theorem request_of_fcQuery (h : byteAt b 1 = p.fcQuery) :
    requestLength p b n = .ok 4 ∧ requestFields p b = .ok queryFields := ⟨if_pos h, if_pos h⟩

/-- A `ReadRegisters` request (42_decoder.md R194, R196). -/
theorem request_of_fcRead (hp : p.codesDistinct) (h : byteAt b 1 = p.fcRead) :
    requestLength p b n = .ok 8 ∧ requestFields p b = .ok (readFields b) := by
  obtain ⟨hqr, -⟩ := hp
  simp [requestLength, requestFields, h, hqr.symm]

/-- A `WriteRegister` request (42_decoder.md R194, R197). -/
theorem request_of_fcWrite (hp : p.codesDistinct) (h : byteAt b 1 = p.fcWrite) :
    requestLength p b n = .ok 8 ∧ requestFields p b = .ok (twoFields kindReqWrite b) := by
  obtain ⟨-, hqw, -, hrw, -⟩ := hp
  simp [requestLength, requestFields, h, hqw.symm, hrw.symm]

/-- A `WriteMultiRegisters` request of at least 9 bytes (42_decoder.md R194, R198). -/
theorem request_of_fcWritem (hp : p.codesDistinct) (h : byteAt b 1 = p.fcWritem) (hn : 9 ≤ n) :
    requestLength p b n = .ok (9 + (byteAt b 6).toNat) ∧ requestFields p b = writemFields b := by
  obtain ⟨-, -, hqm, -, hrm, hwm⟩ := hp
  simp [requestLength, requestFields, h, hqm.symm, hrm.symm, hwm.symm, hn]

/-- A `SlaveIdReport` reply of at least 3 bytes (42_decoder.md R199, R200). -/
theorem reply_of_fcQuery (h : byteAt b 1 = p.fcQuery) (hn : 3 ≤ n) :
    replyLength p b n = .ok (5 + (byteAt b 2).toNat) ∧ replyFields p b = idFields b := by
  simp [replyLength, replyFields, h, hn]

/-- A `ReadRegistersReply` reply of at least 3 bytes (42_decoder.md R199, R201). -/
theorem reply_of_fcRead (hp : p.codesDistinct) (h : byteAt b 1 = p.fcRead) (hn : 3 ≤ n) :
    replyLength p b n = .ok (5 + (byteAt b 2).toNat) ∧ replyFields p b = readReplyFields b := by
  obtain ⟨hqr, -⟩ := hp
  simp [replyLength, replyFields, h, hqr.symm, hn]

/-- A `WriteRegisterReply` reply (42_decoder.md R199, R202). -/
theorem reply_of_fcWrite (hp : p.codesDistinct) (h : byteAt b 1 = p.fcWrite) :
    replyLength p b n = .ok 8 ∧ replyFields p b = .ok (twoFields kindRplWrite b) := by
  obtain ⟨-, hqw, -, hrw, -⟩ := hp
  simp [replyLength, replyFields, h, hqw.symm, hrw.symm]

/-- A `WriteMultiRegistersReply` reply (42_decoder.md R199, R203). -/
theorem reply_of_fcWritem (hp : p.codesDistinct) (h : byteAt b 1 = p.fcWritem) :
    replyLength p b n = .ok 8 ∧ replyFields p b = .ok (twoFields kindRplWritem b) := by
  obtain ⟨-, -, hqm, -, hrm, hwm⟩ := hp
  simp [replyLength, replyFields, h, hqm.symm, hrm.symm, hwm.symm]

/-! ### A decoder on a frame just written -/

section
variable {fc : Byte} {body : List Byte} {extra : List StatusBit} {d : Decoded} {Q : State → Prop}

theorem byteAt_appendCrc {k : Nat} (h : k < body.length) : byteAt (appendCrc body) k = byteAt body k :=
  byteAt_append_left _ _ h

theorem Encodable.frame_emit (hb : Encodable s fc body) (extra : List StatusBit) :
    frame (emit body extra s) = appendCrc body := Machine.frame_emit body extra s (by have := hb.max; omega)

theorem Encodable.fbLen_toNat (hb : Encodable s fc body) (extra : List StatusBit) :
    (emit body extra s).fbLen.toNat = body.length + 2 := emit_fbLen_toNat hb.max extra s

/-- The frame fits the buffer, which has at least 263 cells (00_scope.md R7, 41_encoder.md R163). -/
theorem Encodable.bufferInBound (hb : Encodable s fc body) (hp : s.params.wf) (extra : List StatusBit) :
    bufferInBound (emit body extra s) := by
  obtain ⟨-, -, hsize, -⟩ := hp
  have := hb.max
  rw [Machine.bufferInBound, hb.fbLen_toNat, emit_params]
  omega

theorem validate_appendCrc (body : List Byte) : validate (appendCrc body) = true :=
  (validate_iff _).2 (crc16_appendCrc body)

theorem Encodable.addr_appendCrc (hb : Encodable s fc body) : byteAt (appendCrc body) 0 = s.devAddr := by
  have := hb.min
  rw [byteAt_appendCrc (by omega), hb.addr]

theorem Encodable.code_appendCrc (hb : Encodable s fc body) : byteAt (appendCrc body) 1 = fc := by
  have := hb.min
  rw [byteAt_appendCrc (by omega), hb.code]

/-- DECREQ on a frame just written, when its layout length is its length: every check passes. -/
theorem decodeRequest_emit (hb : Encodable s fc body) (hp : s.params.wf)
    (hlen : requestLength s.params (appendCrc body) (body.length + 2) = .ok (body.length + 2)) :
    decodeRequest (emit body extra s) = requestFields s.params (appendCrc body) := by
  have := hb.min
  rw [decodeRequest, if_pos (hb.bufferInBound hp extra), hb.frame_emit, hb.fbLen_toNat, emit_params, emit_devAddr]
  rw [requestVerdict, if_neg (by omega), if_neg (not_not.2 hb.addr_appendCrc), if_neg (not_not.2 (validate_appendCrc body)),
    hlen]
  exact if_neg (not_not.2 rfl)

/-- DECRPL on a frame just written, when its layout length is its length: every check passes. -/
theorem decodeReply_emit (hb : Encodable s fc body) (hp : s.params.wf)
    (hlen : replyLength s.params (appendCrc body) (body.length + 2) = .ok (body.length + 2)) :
    decodeReply (emit body extra s) = replyFields s.params (appendCrc body) := by
  have hwhole : (appendCrc body).take (body.length + 2) = appendCrc body :=
    List.take_of_length_le (appendCrc_length body).le
  rw [decodeReply, if_pos (hb.bufferInBound hp extra), hb.frame_emit, hb.fbLen_toNat, emit_params]
  rw [replyVerdict, if_neg (by omega), hlen]
  simp only [hwhole, validate_appendCrc, lt_self_iff_false, not_true_eq_false, if_false]

/-- What a decoder leaves after an encoder: the fields it found, and the address and the function code of the body. -/
theorem result_emit (hb : Encodable s fc body) (d : Decoded) (extra : List StatusBit) :
    (result d (emit body extra s)).resAddr = s.devAddr ∧ (result d (emit body extra s)).resFc = fc := by
  rw [result_resAddr, result_resFc, hb.frame_emit]
  exact ⟨hb.addr_appendCrc, hb.code_appendCrc⟩

/-- A request encoder and then DECREQ. -/
theorem thenRuns_decreq (hb : Encodable s fc body) (hp : s.params.wf) (hexec : exec i s = .next (emit body extra s))
    (hlen : requestLength s.params (appendCrc body) (body.length + 2) = .ok (body.length + 2))
    (hfields : requestFields s.params (appendCrc body) = .ok d)
    (hQ : ∀ u, u = result d (emit body extra s) → u.resAddr = s.devAddr → u.resFc = fc → Q u) :
    Claims.ThenRuns i .decreq s Q := by
  have hdec : exec .decreq (emit body extra s) = .next (result d (emit body extra s)) := by
    rw [exec, execDecreq, decodeRequest_emit hb hp hlen, hfields, finishDecode]
  obtain ⟨haddr, hcode⟩ := result_emit hb d extra
  exact ⟨_, _, hexec, hdec, hQ _ rfl haddr hcode⟩

/-- A reply encoder and then DECRPL. -/
theorem thenRuns_decrpl (hb : Encodable s fc body) (hp : s.params.wf) (hexec : exec i s = .next (emit body extra s))
    (hlen : replyLength s.params (appendCrc body) (body.length + 2) = .ok (body.length + 2))
    (hfields : replyFields s.params (appendCrc body) = .ok d)
    (hQ : ∀ u, u = result d (emit body extra s) → u.resAddr = s.devAddr → u.resFc = fc → Q u) :
    Claims.ThenRuns i .decrpl s Q := by
  have hdec : exec .decrpl (emit body extra s) = .next (result d (emit body extra s)) := by
    rw [exec, execDecrpl, decodeReply_emit hb hp hlen, hfields, finishDecode]
  obtain ⟨haddr, hcode⟩ := result_emit hb d extra
  exact ⟨_, _, hexec, hdec, hQ _ rfl haddr hcode⟩

end

/-! ### The fields of the bodies -/

/-- The fields of the four frames that carry two 16-bit fields. -/
theorem field16_twoFieldBody (addr fc : Byte) (v0 v1 : Word) :
    field16 (appendCrc (twoFieldBody addr fc v0 v1)) 2 = v0 ∧ field16 (appendCrc (twoFieldBody addr fc v0 v1)) 4 = v1 :=
  ⟨be16_hi8_lo8 v0, be16_hi8_lo8 v1⟩

theorem twoFields_twoFieldBody (kind addr fc : Byte) (v0 v1 : Word) :
    twoFields kind (appendCrc (twoFieldBody addr fc v0 v1)) =
      { kind := kind, f0 := v0, f1 := v1, f2 := 0, bc := 0, vals := [], str := [], extra := [] } := by
  obtain ⟨h0, h1⟩ := field16_twoFieldBody addr fc v0 v1
  rw [twoFields, h0, h1]

/-- A request whose count is served as it stands is decoded without `CLAMPED`. -/
theorem readFields_twoFieldBody (addr fc : Byte) (v c : Word) :
    readFields (appendCrc (twoFieldBody addr fc v (clamp c))) =
      { kind := kindReqRead, f0 := v, f1 := clamp c, f2 := clamp c, bc := 0, vals := [], str := [], extra := [] } := by
  obtain ⟨h0, h1⟩ := field16_twoFieldBody addr fc v (clamp c)
  rw [readFields, h0, h1, clamp_clamp, bitIf, if_neg (not_not.2 rfl)]

/-- The byte counts of the three bodies that carry one. -/
theorem byteCount_encwmBody (hn : s.valN.toNat ≤ 127) : (byteAt (appendCrc (encwmBody s)) 6).toNat = 2 * s.valN.toNat :=
  Nat.mod_eq_of_lt (by omega)

theorem byteCount_encridBody (hn : s.strLen.toNat ≤ 253) : (byteAt (appendCrc (encridBody s)) 2).toNat = s.strLen.toNat + 2 :=
  Nat.mod_eq_of_lt (by omega)

theorem byteCount_encrrdBody (hn : s.valN.toNat ≤ 125) : (byteAt (appendCrc (encrrdBody s)) 2).toNat = 2 * s.valN.toNat :=
  Nat.mod_eq_of_lt (by omega)

theorem ofNat_values_length (hm : Memory.wf s) (hn : s.valN.toNat ≤ 127) : BitVec.ofNat 8 (values s).length = s.valN := by
  simp [values_length s hm hn]

theorem ofNat_string_length (hm : Memory.wf s) (hn : s.strLen.toNat ≤ 253) : BitVec.ofNat 8 (string s).length = s.strLen := by
  simp [string_length s hm hn]

theorem writemFields_encwmBody (hm : Memory.wf s) (hn : s.valN.toNat ≤ 127) :
    writemFields (appendCrc (encwmBody s)) = .ok
      { kind := kindReqWritem, f0 := s.arg0, f1 := zext16 s.valN, f2 := 0, bc := BitVec.ofNat 8 (2 * s.valN.toNat),
        vals := values s, str := [], extra := [] } := by
  have hbc : byteAt (appendCrc (encwmBody s)) 6 = BitVec.ofNat 8 (2 * s.valN.toNat) := rfl
  have h0 : field16 (appendCrc (encwmBody s)) 2 = s.arg0 := be16_hi8_lo8 s.arg0
  have h1 : field16 (appendCrc (encwmBody s)) 4 = zext16 s.valN := be16_hi8_lo8 _
  have hvals : valuesFromWire (appendCrc (encwmBody s)) 7 s.valN.toNat = values s := by
    have hrt := valuesFromWire_valuesToWire ([s.devAddr, s.params.fcWritem] ++ wireBytes s.arg0 ++ wireBytes (zext16 s.valN)
      ++ [BitVec.ofNat 8 (2 * s.valN.toNat)]) [lo8 (crc16 (encwmBody s)), hi8 (crc16 (encwmBody s))] (values s)
    rwa [values_length s hm hn] at hrt
  rw [writemFields, byteCount_encwmBody hn, hbc, h0, h1, zext16_toNat, hvals, if_neg (not_not.2 rfl)]

theorem readReplyFields_encrrdBody (hm : Memory.wf s) (hn : s.valN.toNat ≤ 125) :
    readReplyFields (appendCrc (encrrdBody s)) = .ok
      { kind := kindRplRead, f0 := 0, f1 := 0, f2 := 0, bc := BitVec.ofNat 8 (2 * s.valN.toNat), vals := values s, str := [],
        extra := [] } := by
  have hbc : byteAt (appendCrc (encrrdBody s)) 2 = BitVec.ofNat 8 (2 * s.valN.toNat) := rfl
  have hvals : valuesFromWire (appendCrc (encrrdBody s)) 3 s.valN.toNat = values s := by
    have hrt := valuesFromWire_valuesToWire [s.devAddr, s.params.fcRead, BitVec.ofNat 8 (2 * s.valN.toNat)]
      [lo8 (crc16 (encrrdBody s)), hi8 (crc16 (encrrdBody s))] (values s)
    rwa [values_length s hm (by omega)] at hrt
  rw [readReplyFields, byteCount_encrrdBody hn, hbc, Nat.mul_div_cancel_left _ (by decide), hvals, if_neg (by omega)]

/-- The middle of a sequence, cut out. -/
theorem slice_append (pre mid post : List Byte) :
    slice (pre ++ mid ++ post) pre.length (pre.length + mid.length) = mid := by
  rw [slice, ← List.length_append, List.take_left, List.drop_left]

theorem idFields_encridBody (hm : Memory.wf s) (hn : s.strLen.toNat ≤ 253) :
    idFields (appendCrc (encridBody s)) = .ok
      { kind := kindRplId, f0 := zext16 (lo8 s.arg0), f1 := zext16 (lo8 s.arg1), f2 := 0,
        bc := BitVec.ofNat 8 (s.strLen.toNat + 2), vals := [], str := string s, extra := [] } := by
  have hbc : byteAt (appendCrc (encridBody s)) 2 = BitVec.ofNat 8 (s.strLen.toNat + 2) := rfl
  have h0 : byteAt (appendCrc (encridBody s)) 3 = lo8 s.arg0 := rfl
  have h1 : byteAt (appendCrc (encridBody s)) 4 = lo8 s.arg1 := rfl
  have hstr : slice (appendCrc (encridBody s)) 5 (5 + s.strLen.toNat) = string s := by
    have hcut := slice_append [s.devAddr, s.params.fcQuery, BitVec.ofNat 8 (s.strLen.toNat + 2), lo8 s.arg0, lo8 s.arg1]
      (string s) [lo8 (crc16 (encridBody s)), hi8 (crc16 (encridBody s))]
    rwa [string_length s hm hn] at hcut
  rw [idFields, byteCount_encridBody hn, hbc, h0, h1, show 5 + (s.strLen.toNat + 2) - 2 = 5 + s.strLen.toNat by omega,
    hstr, if_neg (by omega)]

/-! ### The round trips -/

/-- Settles O35: each body has the layout length of its function code, and its fields are the operands. -/
theorem requestFramesRoundTrip : Obligations.RequestFramesRoundTrip := by
  intro s hp hm
  have hcodes := hp.1
  refine ⟨?_, ?_, ?_, fun hn hcount => ?_⟩
  · have hb := queryBody_encodable s s.params.fcQuery
    obtain ⟨hlen, hfields⟩ := request_of_fcQuery hb.code_appendCrc
    refine thenRuns_decreq hb hp (exec_encq s) hlen hfields ?_
    rintro _ rfl haddr hcode
    exact ⟨statusWord_ok, rfl, haddr, hcode⟩
  · have hb := twoFieldBody_encodable s s.params.fcRead s.arg0 (clamp s.arg1)
    obtain ⟨hlen, hfields⟩ := request_of_fcRead hcodes hb.code_appendCrc
    refine thenRuns_decreq hb hp (exec_encrd s) hlen (hfields.trans (congrArg _ (readFields_twoFieldBody _ _ _ _))) ?_
    rintro _ rfl haddr hcode
    exact ⟨statusWord_ok, rfl, haddr, hcode, rfl, rfl, rfl⟩
  · have hb := twoFieldBody_encodable s s.params.fcWrite s.arg0 s.arg1
    obtain ⟨hlen, hfields⟩ := request_of_fcWrite hcodes hb.code_appendCrc
    refine thenRuns_decreq hb hp (exec_encwr s) hlen (hfields.trans (congrArg _ (twoFields_twoFieldBody _ _ _ _ _))) ?_
    rintro _ rfl haddr hcode
    exact ⟨statusWord_ok, rfl, haddr, hcode, rfl, rfl⟩
  · have hb := encwmBody_encodable hn
    have hvals := values_length s hm hn
    have hexec : exec .encwm s = .next (emit (encwmBody s) [] s) := by rw [exec_encwm, if_neg (by omega)]
    have htotal : 9 + (byteAt (appendCrc (encwmBody s)) 6).toNat = (encwmBody s).length + 2 := by
      rw [encwmBody_length, hvals, byteCount_encwmBody hn]
      omega
    obtain ⟨hlen, hfields⟩ := request_of_fcWritem hcodes hb.code_appendCrc (n := (encwmBody s).length + 2) (by omega)
    refine thenRuns_decreq hb hp hexec (htotal ▸ hlen) (hfields.trans (writemFields_encwmBody hm hn)) ?_
    rintro _ rfl haddr hcode
    exact ⟨statusWord_ok, rfl, haddr, hcode, rfl, (eq_zext16_iff.2 hcount).symm, byteCount_encwmBody hn,
      ofNat_values_length hm hn, values_result _ _ (by rw [hvals]; omega)⟩

/-- Settles O36, as the requests: layout length, then fields. -/
theorem replyFramesRoundTrip : Obligations.ReplyFramesRoundTrip := by
  intro s hp hm
  have hcodes := hp.1
  refine ⟨fun hn => ?_, fun hpos hn => ?_, ?_, ?_⟩
  · have hb := encridBody_encodable hn
    have hstr := string_length s hm hn
    have hexec : exec .encrid s = .next (emit (encridBody s) [] s) := by rw [exec_encrid, if_neg (by omega)]
    have htotal : 5 + (byteAt (appendCrc (encridBody s)) 2).toNat = (encridBody s).length + 2 := by
      rw [encridBody_length, hstr, byteCount_encridBody hn]
      omega
    obtain ⟨hlen, hfields⟩ := reply_of_fcQuery hb.code_appendCrc (n := (encridBody s).length + 2) (by omega)
    refine thenRuns_decrpl hb hp hexec (htotal ▸ hlen) (hfields.trans (idFields_encridBody hm hn)) ?_
    rintro _ rfl haddr hcode
    exact ⟨statusWord_ok, rfl, haddr, hcode, (zext16_toNat _).trans (lo8_toNat _), (zext16_toNat _).trans (lo8_toNat _),
      byteCount_encridBody hn, ofNat_string_length hm hn, string_result _ _ (by rw [hstr]; omega)⟩
  · have hb := encrrdBody_encodable hn
    have hvals := values_length s hm (by omega)
    have hexec : exec .encrrd s = .next (emit (encrrdBody s) [] s) := by rw [exec_encrrd, if_neg (by omega)]
    have htotal : 5 + (byteAt (appendCrc (encrrdBody s)) 2).toNat = (encrrdBody s).length + 2 := by
      rw [encrrdBody_length, hvals, byteCount_encrrdBody hn]
      omega
    obtain ⟨hlen, hfields⟩ := reply_of_fcRead hcodes hb.code_appendCrc (n := (encrrdBody s).length + 2) (by omega)
    refine thenRuns_decrpl hb hp hexec (htotal ▸ hlen) (hfields.trans (readReplyFields_encrrdBody hm hn)) ?_
    rintro _ rfl haddr hcode
    exact ⟨statusWord_ok, rfl, haddr, hcode, byteCount_encrrdBody hn, ofNat_values_length hm (by omega),
      values_result _ _ (by rw [hvals]; omega)⟩
  · have hb := twoFieldBody_encodable s s.params.fcWrite s.arg0 s.arg1
    obtain ⟨hlen, hfields⟩ := reply_of_fcWrite hcodes hb.code_appendCrc
    refine thenRuns_decrpl hb hp (exec_encrwr s) hlen (hfields.trans (congrArg _ (twoFields_twoFieldBody _ _ _ _ _))) ?_
    rintro _ rfl haddr hcode
    exact ⟨statusWord_ok, rfl, haddr, hcode, rfl, rfl⟩
  · have hb := twoFieldBody_encodable s s.params.fcWritem s.arg0 s.arg1
    obtain ⟨hlen, hfields⟩ := reply_of_fcWritem hcodes hb.code_appendCrc
    refine thenRuns_decrpl hb hp (exec_encrwm s) hlen (hfields.trans (congrArg _ (twoFields_twoFieldBody _ _ _ _ _))) ?_
    rintro _ rfl haddr hcode
    exact ⟨statusWord_ok, rfl, haddr, hcode, rfl, rfl⟩

end Sys2Proof.Machine
end

section
/-! SUPPORT. The two ends of a decoder (42_decoder.md R191, R192): which verdict leads to which, what `STATUS` tells of it, and
the fields of a frame in the words of the statements. -/

namespace Sys2Proof.Machine

variable {s t : State} {d : Decoded} {err : StatusBit}

/-! ### The verdict and the state it leaves -/

theorem exec_decreq (s : State) : exec .decreq s = .next (finishDecode (decodeRequest s) s) := rfl

theorem exec_decrpl (s : State) : exec .decrpl s = .next (finishDecode (decodeReply s) s) := rfl

theorem exec_decreq_of_ok (h : decodeRequest s = .ok d) : exec .decreq s = .next (result d s) := by
  rw [exec_decreq, h, finishDecode]

theorem exec_decreq_of_error (h : decodeRequest s = .error err) : exec .decreq s = .next (sentinel err s) := by
  rw [exec_decreq, h, finishDecode]

theorem exec_decrpl_of_ok (h : decodeReply s = .ok d) : exec .decrpl s = .next (result d s) := by
  rw [exec_decrpl, h, finishDecode]

theorem exec_decrpl_of_error (h : decodeReply s = .error err) : exec .decrpl s = .next (sentinel err s) := by
  rw [exec_decrpl, h, finishDecode]

theorem result_status_ok (hd : d.Fits) (s : State) : (result d s).status.getLsbD 0 = true := by
  obtain h | h := statusWord_ok_extra hd.extra <;> simp [h]

theorem sentinel_status_not_ok (herr : err ∈ decodeErrors) (s : State) : (sentinel err s).status.getLsbD 0 = false :=
  forall_mem_of_all (P := fun w => w.getLsbD 0 = false) (by decide) _ (statusWord_decodeError herr)

/-- A decoder ends with `OK` only on a frame it accepts. -/
theorem accepted_of_status_ok {verdict : Except StatusBit Decoded} (herr : ∀ err, verdict = .error err → err ∈ decodeErrors)
    (hok : (finishDecode verdict s).status.getLsbD 0 = true) :
    ∃ d, verdict = .ok d ∧ finishDecode verdict s = result d s := by
  cases verdict with
  | ok d => exact ⟨d, rfl, rfl⟩
  | error err => exact absurd (hok.symm.trans (sentinel_status_not_ok (herr err rfl) s)) (by decide)

theorem decodeRequest_of_status_ok (h : exec .decreq s = .next t) (hok : t.status.getLsbD 0 = true) :
    ∃ d, decodeRequest s = .ok d ∧ t = result d s := by
  cases h
  exact accepted_of_status_ok (fun _ => decodeRequest_error) hok

theorem decodeReply_of_status_ok (h : exec .decrpl s = .next t) (hok : t.status.getLsbD 0 = true) :
    ∃ d, decodeReply s = .ok d ∧ t = result d s := by
  cases h
  exact accepted_of_status_ok (fun _ => decodeReply_error) hok

/-- Settles O47: of a decoder's two ends only the sentinel lacks `OK`. -/
theorem failedDecodeIsTheSentinel : Obligations.FailedDecodeIsTheSentinel := by
  intro i s t hi h hfail
  cases decoderEnd_of_exec hi h with
  | result d hd => exact absurd (hfail.symm.trans (result_status_ok hd s)) (by decide)
  | sentinel err herr => exact ⟨rfl, statusWord_decodeError herr⟩

/-! ### The status of a verdict -/

/-- The `STATUS` that a verdict comes to (42_decoder.md R191, R192). -/
def verdictStatus : Except StatusBit Decoded → Word
  | .ok d => statusWord (.ok :: d.extra)
  | .error err => statusWord [err]

@[simp] theorem verdictStatus_ok (d : Decoded) : verdictStatus (.ok d) = statusWord (.ok :: d.extra) := rfl

@[simp] theorem verdictStatus_error (err : StatusBit) : verdictStatus (.error err) = statusWord [err] := rfl

theorem finishDecode_status (verdict : Except StatusBit Decoded) (s : State) :
    (finishDecode verdict s).status = verdictStatus verdict := by
  cases verdict <;> rfl

theorem verdictStatus_twoFields (kind : Byte) (b : List Byte) : verdictStatus (.ok (twoFields kind b)) = 0x0001#16 :=
  statusWord_ok

/-! ### The fields of a frame in the words of the statements -/

theorem beField_eq (b : List Byte) (o : Nat) : Claims.beField b o = field16 b o := by
  refine BitVec.eq_of_toNat_eq ?_
  have hhi := (byteAt b o).isLt
  have hlo := (byteAt b (o + 1)).isLt
  rw [field16, be16_toNat]
  exact Nat.mod_eq_of_lt (by omega)

theorem beFields_eq (b : List Byte) (o k : Nat) : Claims.beFields b o k = valuesFromWire b o k :=
  List.map_congr_left fun i _ => beField_eq b (o + 2 * i)

/-- A frame that carries two 16-bit fields, decoded (42_decoder.md R192; R197, R202 and R203). -/
theorem result_twoFields (kind : Byte) (s : State) : result (twoFields kind (frame s)) s = { s with
    resKind := kind, resAddr := byteAt (frame s) 0, resFc := byteAt (frame s) 1
    resF0 := Claims.beField (frame s) 2, resF1 := Claims.beField (frame s) 4, resF2 := 0, resBc := 0
    valN := 0, strLen := 0, status := 0x0001 } := by
  have hstatus : statusWord (.ok :: (twoFields kind (frame s)).extra) = 0x0001 := statusWord_ok
  rw [result, hstatus, beField_eq, beField_eq]
  rfl

/-- The format error of both decoders (42_decoder.md R198, R200, R201). -/
theorem withSentinel_fmtErr (s : State) : Claims.withSentinel 0x0010 s = sentinel .fmtErr s := rfl

end Sys2Proof.Machine
end

section
/-! SUPPORT. DECREQ (42_decoder.md R194 to R198): its checks in their order, and what it leaves for each of the four requests. -/

namespace Sys2Proof.Machine

variable {s : State}

/-! ### The order of the checks -/

/-- The buffer bound is the first check (60_exceptions.md R243). -/
theorem decodeRequest_eq (s : State) : decodeRequest s =
    if s.params.fbSize.toNat < s.fbLen.toNat then .error .lenErr
    else requestVerdict s.params s.devAddr (frame s) s.fbLen.toNat := by
  rw [decodeRequest]
  simp only [bufferInBound, ← not_lt, ite_not]

/-- The layout length and the fields by function code, as one chain (42_decoder.md R194). -/
theorem requestVerdict_eq (p : Params) (addr : Byte) (b : List Byte) (n : Nat) : requestVerdict p addr b n =
    if n < 4 then .error .lenErr
    else if byteAt b 0 ≠ addr then .error .addrErr
    else if ¬ validate b then .error .crcErr
    else if byteAt b 1 = p.fcQuery then (if n ≠ 4 then .error .lenErr else .ok queryFields)
    else if byteAt b 1 = p.fcRead then (if n ≠ 8 then .error .lenErr else .ok (readFields b))
    else if byteAt b 1 = p.fcWrite then (if n ≠ 8 then .error .lenErr else .ok (twoFields kindReqWrite b))
    else if byteAt b 1 = p.fcWritem then
      (if n < 9 then .error .lenErr
       else if n ≠ 9 + (byteAt b 6).toNat then .error .lenErr
       else writemFields b)
    else .error .fcErr := by
  unfold requestVerdict requestLength requestFields
  by_cases hq : byteAt b 1 = p.fcQuery
  · simp only [if_pos hq]
  by_cases hr : byteAt b 1 = p.fcRead
  · simp only [if_neg hq, if_pos hr]
  by_cases hw : byteAt b 1 = p.fcWrite
  · simp only [if_neg hq, if_neg hr, if_pos hw]
  by_cases hm : byteAt b 1 = p.fcWritem
  · by_cases hn : n < 9
    · simp only [if_neg hq, if_neg hr, if_neg hw, if_pos hm, if_pos hn]
    · simp only [if_neg hq, if_neg hr, if_neg hw, if_pos hm, if_neg hn]
  · simp only [if_neg hq, if_neg hr, if_neg hw, if_neg hm]

theorem bitIf_clamped_of_served {c : Word} (h : 1 ≤ c.toNat ∧ c.toNat ≤ 125) : bitIf (clamp c ≠ c) .clamped = [] :=
  if_neg (not_not.2 (clamp_of_served h))

theorem bitIf_clamped_of_not_served {c : Word} (h : c.toNat = 0 ∨ 125 < c.toNat) :
    bitIf (clamp c ≠ c) .clamped = [.clamped] := by
  refine if_pos fun heq => ?_
  have := heq ▸ clamp_served c
  omega

theorem verdictStatus_queryFields : verdictStatus (.ok queryFields) = 0x0001#16 := statusWord_ok

theorem verdictStatus_readFields (b : List Byte) : verdictStatus (.ok (readFields b)) =
    if 1 ≤ (field16 b 4).toNat ∧ (field16 b 4).toNat ≤ 125 then 0x0001#16 else 0x0101#16 := by
  rw [verdictStatus_ok, readFields]
  split
  next h => rw [bitIf_clamped_of_served h, statusWord_ok]
  next h => rw [bitIf_clamped_of_not_served (by omega), statusWord_ok_clamped]

theorem verdictStatus_writemFields (b : List Byte) : verdictStatus (writemFields b) =
    if (byteAt b 6).toNat ≠ 2 * (field16 b 4).toNat then 0x0010#16 else 0x0001#16 := by
  rw [writemFields, apply_ite verdictStatus, verdictStatus_error, verdictStatus_ok, statusWord_fmtErr, statusWord_ok]

/-- Settles O37: the chain of the checks, each verdict with its status. -/
theorem decreqReportsTheFirstFailingCheck : Obligations.DecreqReportsTheFirstFailingCheck := by
  intro s
  refine ⟨_, exec_decreq s, ?_⟩
  rw [finishDecode_status, decodeRequest_eq, requestVerdict_eq]
  simp only [apply_ite verdictStatus, verdictStatus_error, verdictStatus_queryFields, verdictStatus_readFields,
    verdictStatus_twoFields, verdictStatus_writemFields, statusWord_lenErr, statusWord_addrErr, statusWord_crcErr,
    statusWord_fcErr, validate_iff, beField_eq, ite_not, BitVec.ofNat_eq_ofNat]

/-! ### The request that arrived -/

/-- A request that arrived, of its layout length, is decoded by its function code. -/
theorem decodeRequest_of_arrived (h : Claims.RequestArrived s)
    (hlen : requestLength s.params (frame s) s.fbLen.toNat = .ok s.fbLen.toNat) :
    decodeRequest s = requestFields s.params (frame s) := by
  obtain ⟨-, hbound, hmin, haddr, hcrc⟩ := h
  rw [decodeRequest, if_pos hbound, requestVerdict, if_neg (by omega), if_neg (not_not.2 haddr),
    if_neg (not_not.2 ((validate_iff _).2 hcrc)), hlen]
  exact if_neg (not_not.2 rfl)

/-- Settles O38: the layout length is 4, and a `Query` has no field. -/
theorem decreqDecodesAQuery : Obligations.DecreqDecodesAQuery := by
  intro s h hfc hn
  obtain ⟨hlen, hfields⟩ := request_of_fcQuery (n := s.fbLen.toNat) hfc
  exact exec_decreq_of_ok ((decodeRequest_of_arrived h (hn ▸ hlen)).trans hfields)

/-- Settles O39: the two cases of the clamp, and the bit that flags the second. -/
theorem decreqDecodesAReadWithTheCountClamped : Obligations.DecreqDecodesAReadWithTheCountClamped := by
  intro s h hfc hn
  obtain ⟨hlen, hfields⟩ := request_of_fcRead (n := s.fbLen.toNat) h.1.1 hfc
  have hexec := exec_decreq_of_ok ((decodeRequest_of_arrived h (hn ▸ hlen)).trans hfields)
  simp only [beField_eq]
  refine ⟨_, _, hexec, fun hserved => ?_, fun hserved => ?_⟩
  · exact ⟨clamp_of_served hserved, congrArg (fun l => statusWord (.ok :: l)) (bitIf_clamped_of_served hserved)⟩
  · exact ⟨clamp_of_not_served hserved, congrArg (fun l => statusWord (.ok :: l)) (bitIf_clamped_of_not_served hserved)⟩

/-- Settles O40: the layout length is 8, and the fields are the two of the frame. -/
theorem decreqDecodesAWrite : Obligations.DecreqDecodesAWrite := by
  intro s h hfc hn
  obtain ⟨hlen, hfields⟩ := request_of_fcWrite (n := s.fbLen.toNat) h.1.1 hfc
  rw [exec_decreq_of_ok ((decodeRequest_of_arrived h (hn ▸ hlen)).trans hfields), result_twoFields]
  rfl

/-- Settles O41: the byte count gives the length, and is then checked against the count. -/
theorem decreqDecodesAWriteMultiple : Obligations.DecreqDecodesAWriteMultiple := by
  intro s h hfc hn
  obtain ⟨hlen, hfields⟩ := request_of_fcWritem (n := s.fbLen.toNat) h.1.1 hfc (by omega)
  have hdec := (decodeRequest_of_arrived h (hlen.trans (congrArg _ hn.symm))).trans hfields
  simp only [beField_eq, beFields_eq, withSentinel_fmtErr]
  refine ⟨fun hbc => ?_, fun hbc => exec_decreq_of_error (hdec.trans (if_pos hbc))⟩
  rw [exec_decreq_of_ok (hdec.trans (if_neg (not_not.2 hbc))), result]
  simp only [storeAtFront, valuesFromWire_length]
  rfl

end Sys2Proof.Machine
end

section
/-! SUPPORT. DECRPL (42_decoder.md R199 to R204): its checks in their order, what it leaves for each of the four replies, and the
bytes after a frame, which DECRPL ignores and DECREQ rejects. -/

namespace Sys2Proof.Machine

variable {s t : State} {p : Params} {b : List Byte} {m : Word} {n k len : Nat} {fc : Byte} {d : Decoded}

/-! ### The order of the checks -/

/-- The buffer bound is the first check (60_exceptions.md R243). -/
theorem decodeReply_eq (s : State) : decodeReply s =
    if s.params.fbSize.toNat < s.fbLen.toNat then .error .lenErr
    else replyVerdict s.params (frame s) s.fbLen.toNat := by
  rw [decodeReply]
  simp only [bufferInBound, ← not_lt, ite_not]

/-- The layout length by function code, as one chain (42_decoder.md R199). -/
theorem replyVerdict_eq (p : Params) (b : List Byte) (n : Nat) : replyVerdict p b n =
    if n < 2 then .error .lenErr
    else if byteAt b 1 = p.fcQuery ∨ byteAt b 1 = p.fcRead then
      (if n < 3 then .error .lenErr
       else if n < 5 + (byteAt b 2).toNat then .error .lenErr
       else if ¬ validate (b.take (5 + (byteAt b 2).toNat)) then .error .crcErr
       else replyFields p b)
    else if byteAt b 1 = p.fcWrite ∨ byteAt b 1 = p.fcWritem then
      (if n < 8 then .error .lenErr
       else if ¬ validate (b.take 8) then .error .crcErr
       else replyFields p b)
    else .error .fcErr := by
  unfold replyVerdict replyLength
  by_cases hcount : byteAt b 1 = p.fcQuery ∨ byteAt b 1 = p.fcRead
  · by_cases hn : n < 3
    · simp only [if_pos hcount, if_pos hn]
    · simp only [if_pos hcount, if_neg hn]
  by_cases hecho : byteAt b 1 = p.fcWrite ∨ byteAt b 1 = p.fcWritem
  · simp only [if_neg hcount, if_pos hecho]
  · simp only [if_neg hcount, if_neg hecho]

theorem verdictStatus_idFields (b : List Byte) : verdictStatus (idFields b) =
    if (byteAt b 2).toNat < 2 then 0x0010#16 else 0x0001#16 := by
  rw [idFields, apply_ite verdictStatus, verdictStatus_error, verdictStatus_ok, statusWord_fmtErr, statusWord_ok]

theorem verdictStatus_readReplyFields (b : List Byte) : verdictStatus (readReplyFields b) =
    if (byteAt b 2).toNat % 2 = 1 then 0x0010#16 else 0x0001#16 := by
  rw [readReplyFields, apply_ite verdictStatus, verdictStatus_error, verdictStatus_ok, statusWord_fmtErr, statusWord_ok]

/-- The byte-count checks of the two replies that carry one (42_decoder.md R200, R201). -/
theorem verdictStatus_replyFields_counted (hp : p.codesDistinct) (hcount : byteAt b 1 = p.fcQuery ∨ byteAt b 1 = p.fcRead) :
    verdictStatus (replyFields p b) =
      if byteAt b 1 = p.fcQuery ∧ (byteAt b 2).toNat < 2 then 0x0010#16
      else if byteAt b 1 = p.fcRead ∧ (byteAt b 2).toNat % 2 = 1 then 0x0010#16
      else 0x0001#16 := by
  obtain ⟨hqr, -⟩ := hp
  obtain h | h := hcount
  · simp [replyFields, h, hqr, verdictStatus_idFields]
  · simp [replyFields, h, hqr.symm, verdictStatus_readReplyFields]

/-- The two write replies have no check of their own (42_decoder.md R202, R203). -/
theorem verdictStatus_replyFields_echo (hcount : ¬ (byteAt b 1 = p.fcQuery ∨ byteAt b 1 = p.fcRead)) :
    verdictStatus (replyFields p b) = 0x0001#16 := by
  obtain ⟨hq, hr⟩ := not_or.1 hcount
  rw [replyFields, if_neg hq, if_neg hr, apply_ite verdictStatus, verdictStatus_twoFields, verdictStatus_twoFields, ite_self]

/-- Settles O42: the chain of the checks, each verdict with its status. -/
theorem decrplReportsTheFirstFailingCheck : Obligations.DecrplReportsTheFirstFailingCheck := by
  intro s hp
  refine ⟨_, exec_decrpl s, ?_⟩
  rw [finishDecode_status, decodeReply_eq, replyVerdict_eq]
  by_cases hcount : byteAt (frame s) 1 = s.params.fcQuery ∨ byteAt (frame s) 1 = s.params.fcRead
  · simp only [if_pos hcount, apply_ite verdictStatus, verdictStatus_error, verdictStatus_replyFields_counted hp.1 hcount,
      statusWord_lenErr, statusWord_crcErr, validate_iff, ne_eq, BitVec.ofNat_eq_ofNat]
  · simp only [if_neg hcount, apply_ite verdictStatus, verdictStatus_error, verdictStatus_replyFields_echo hcount,
      statusWord_lenErr, statusWord_crcErr, statusWord_fcErr, validate_iff, ne_eq, BitVec.ofNat_eq_ofNat]

/-! ### The reply that arrived -/

/-- A reply that arrived, with the layout length of its function code, is decoded by its function code. -/
theorem decodeReply_of_arrived (h : Claims.ReplyArrived s fc len)
    (hlen : replyLength s.params (frame s) s.fbLen.toNat = .ok len) :
    decodeReply s = replyFields s.params (frame s) := by
  obtain ⟨-, hbound, hmin, hn, -, hcrc⟩ := h
  rw [decodeReply, if_pos hbound, replyVerdict, if_neg (by omega), hlen]
  simp only [if_neg (not_lt.2 hn), (validate_iff _).2 hcrc, not_true_eq_false, if_false]

theorem decodeReply_of_fcQuery (h : Claims.ReplyArrived s s.params.fcQuery (5 + (byteAt (frame s) 2).toNat)) :
    decodeReply s = idFields (frame s) := by
  have ⟨_, _, hmin, hn, hfc, _⟩ := h
  obtain ⟨hlen, hfields⟩ := reply_of_fcQuery (n := s.fbLen.toNat) hfc (by omega)
  exact (decodeReply_of_arrived h hlen).trans hfields

theorem decodeReply_of_fcRead (h : Claims.ReplyArrived s s.params.fcRead (5 + (byteAt (frame s) 2).toNat)) :
    decodeReply s = readReplyFields (frame s) := by
  have ⟨hp, _, hmin, hn, hfc, _⟩ := h
  obtain ⟨hlen, hfields⟩ := reply_of_fcRead (n := s.fbLen.toNat) hp.1 hfc (by omega)
  exact (decodeReply_of_arrived h hlen).trans hfields

theorem decodeReply_of_fcWrite (h : Claims.ReplyArrived s s.params.fcWrite 8) :
    decodeReply s = .ok (twoFields kindRplWrite (frame s)) := by
  have ⟨hp, _, _, _, hfc, _⟩ := h
  obtain ⟨hlen, hfields⟩ := reply_of_fcWrite hp.1 hfc
  exact (decodeReply_of_arrived h hlen).trans hfields

theorem decodeReply_of_fcWritem (h : Claims.ReplyArrived s s.params.fcWritem 8) :
    decodeReply s = .ok (twoFields kindRplWritem (frame s)) := by
  have ⟨hp, _, _, _, hfc, _⟩ := h
  obtain ⟨hlen, hfields⟩ := reply_of_fcWritem hp.1 hfc
  exact (decodeReply_of_arrived h hlen).trans hfields

/-- `b[i..j)` as the `j - i` bytes from offset `i` on (00_scope.md R10). -/
theorem slice_eq_take_drop (b : List Byte) (i j : Nat) : slice b i j = (b.drop i).take (j - i) := by
  rw [slice, List.drop_take]

/-- The string's length is the byte count without the identifier and the run indicator (42_decoder.md R200). -/
theorem ofNat_toNat_sub_two {c : Byte} (h : 2 ≤ c.toNat) : BitVec.ofNat 8 (c.toNat - 2) = c - 2 := by
  rw [← BitVec.ofNat_sub_ofNat_of_le _ 2 (by decide) h, BitVec.ofNat_toNat, BitVec.setWidth_eq]
  rfl

/-- Settles O43: the string is cut out of a frame that is all there, so it has as many bytes as the byte count says. -/
theorem decrplDecodesAnIdentification : Obligations.DecrplDecodesAnIdentification := by
  intro s hm h
  have hdec := decodeReply_of_fcQuery h
  obtain ⟨-, hbound, -, hn, -, -⟩ := h
  refine ⟨fun hbc => ?_, fun hbc => exec_decrpl_of_error (hdec.trans (if_pos hbc))⟩
  have hcut : 5 + (byteAt (frame s) 2).toNat - 2 - 5 = (byteAt (frame s) 2).toNat - 2 := by omega
  have hlen : (((frame s).drop 5).take ((byteAt (frame s) 2).toNat - 2)).length = (byteAt (frame s) 2).toNat - 2 := by
    rw [List.length_take, List.length_drop, frame_length s hm hbound]
    omega
  rw [exec_decrpl_of_ok (hdec.trans (if_neg (not_lt.2 hbc))), result]
  simp only [slice_eq_take_drop, hcut, storeAtFront, hlen, ofNat_toNat_sub_two hbc]
  rfl

/-- Settles O44: the values are half as many as the byte count. -/
theorem decrplDecodesAReadReply : Obligations.DecrplDecodesAReadReply := by
  intro s h
  have hdec := decodeReply_of_fcRead h
  refine ⟨fun hbc => ?_, fun hbc => exec_decrpl_of_error (hdec.trans (if_pos hbc))⟩
  rw [exec_decrpl_of_ok (hdec.trans (if_neg (by omega))), result, beFields_eq]
  simp only [storeAtFront, valuesFromWire_length]
  rfl

/-- Settles O45: the fields are the two of the frame, and only the kind differs. -/
theorem decrplDecodesTheWriteReplies : Obligations.DecrplDecodesTheWriteReplies := by
  intro s
  refine ⟨fun h => ?_, fun h => ?_⟩
  · rw [exec_decrpl_of_ok (decodeReply_of_fcWrite h), result_twoFields]
    rfl
  · rw [exec_decrpl_of_ok (decodeReply_of_fcWritem h), result_twoFields]
    rfl

/-! ### Bytes after the frame (42_decoder.md R204) -/

/-- With fewer bytes counted the frame is its own beginning. -/
theorem frame_shorter (h : m.toNat ≤ s.fbLen.toNat) : frame { s with fbLen := m } = (frame s).take m.toNat := by
  rw [frame, frame, List.take_take, Nat.min_eq_left h]

theorem idFields_take (h : 5 + (byteAt b 2).toNat ≤ k) : idFields (b.take k) = idFields b := by
  have hstr : slice (b.take k) 5 (5 + (byteAt b 2).toNat - 2) = slice b 5 (5 + (byteAt b 2).toNat - 2) := by
    rw [slice, slice, List.take_take, Nat.min_eq_left (by omega)]
  rw [idFields, idFields, byteAt_take b (by omega), hstr]
  split
  · rfl
  · rw [byteAt_take b (by omega), byteAt_take b (by omega)]

theorem readReplyFields_take (h : 5 + (byteAt b 2).toNat ≤ k) : readReplyFields (b.take k) = readReplyFields b := by
  rw [readReplyFields, readReplyFields, byteAt_take b (by omega), valuesFromWire_take b (by omega)]

theorem twoFields_take (kind : Byte) (h : 6 ≤ k) : twoFields kind (b.take k) = twoFields kind b := by
  rw [twoFields, twoFields, field16_take b (by omega), field16_take b (by omega)]

/-- A reply whose bytes are among the first `k` of the frame has arrived. -/
theorem replyArrived_of_take (hp : s.params.wf) (hb : bufferInBound s) (hk : k ≤ s.fbLen.toNat) (hmin : 5 ≤ len)
    (hlen : len ≤ k) (hfc : byteAt ((frame s).take k) 1 = fc) (hv : validate (((frame s).take k).take len) = true) :
    Claims.ReplyArrived s fc len := by
  rw [byteAt_take _ (by omega)] at hfc
  rw [List.take_take, Nat.min_eq_left hlen, validate_iff] at hv
  exact ⟨hp, hb, hmin, hlen.trans hk, hfc, hv⟩

/-- A reply accepted in the first `m` bytes is accepted, with the same fields, when more are counted. -/
theorem decodeReply_longer (hp : s.params.wf) (hb : bufferInBound s) (hm : m.toNat ≤ s.fbLen.toNat)
    (h : decodeReply { s with fbLen := m } = .ok d) : decodeReply s = .ok d := by
  have hok := decodeReply_ok h
  rw [frame_shorter hm] at hok
  dsimp only at hok
  obtain ⟨-, -, ⟨hfc, hn, hv, hd⟩ | ⟨hfc, hn, hv, hd⟩ | ⟨hfc, hn, hv, rfl⟩ | ⟨hfc, hn, hv, rfl⟩⟩ := hok
  · have harrived := replyArrived_of_take hp hb hm (by omega) hn hfc hv
    rw [byteAt_take _ (by omega)] at hn harrived
    rw [decodeReply_of_fcQuery harrived, ← idFields_take hn, hd]
  · have harrived := replyArrived_of_take hp hb hm (by omega) hn hfc hv
    rw [byteAt_take _ (by omega)] at hn harrived
    rw [decodeReply_of_fcRead harrived, ← readReplyFields_take hn, hd]
  · rw [decodeReply_of_fcWrite (replyArrived_of_take hp hb hm (by omega) hn hfc hv), twoFields_take _ (by omega)]
  · rw [decodeReply_of_fcWritem (replyArrived_of_take hp hb hm (by omega) hn hfc hv), twoFields_take _ (by omega)]

theorem result_longer (hm : m.toNat ≤ s.fbLen.toNat) (h2 : 2 ≤ m.toNat) (d : Decoded) :
    { result d { s with fbLen := m } with fbLen := s.fbLen } = result d s := by
  rw [result, result, frame_shorter hm, byteAt_take _ (by omega), byteAt_take _ (by omega)]

/-- The length of an accepted request is its layout length (42_decoder.md R194). -/
theorem requestLength_of_ok (hp : s.params.codesDistinct) (h : decodeRequest s = .ok d) :
    requestLength s.params (frame s) s.fbLen.toNat = .ok s.fbLen.toNat := by
  obtain ⟨-, -, -, -, ⟨hfc, hn, -⟩ | ⟨hfc, hn, -⟩ | ⟨hfc, hn, -⟩ | ⟨hfc, hn, -⟩⟩ := decodeRequest_ok h
  · rw [(request_of_fcQuery hfc).1, hn]
  · rw [(request_of_fcRead hp hfc).1, hn]
  · rw [(request_of_fcWrite hp hfc).1, hn]
  · rw [(request_of_fcWritem hp hfc (by omega)).1, ← hn]

/-- The layout length of a request depends on no byte past the frame. -/
theorem requestLength_longer (h4 : 4 ≤ k) (hk : k ≤ n) (h : requestLength p (b.take k) k = .ok len) :
    requestLength p b n = .ok len := by
  rw [requestLength, byteAt_take b (by omega)] at h
  rw [requestLength]
  by_cases hq : byteAt b 1 = p.fcQuery
  · rwa [if_pos hq] at h ⊢
  by_cases hr : byteAt b 1 = p.fcRead
  · rwa [if_neg hq, if_pos hr] at h ⊢
  by_cases hw : byteAt b 1 = p.fcWrite
  · rwa [if_neg hq, if_neg hr, if_pos hw] at h ⊢
  rw [if_neg hq, if_neg hr, if_neg hw] at h ⊢
  by_cases hm : byteAt b 1 = p.fcWritem
  · rw [if_pos hm] at h ⊢
    by_cases h9 : k < 9
    · rw [if_pos h9] at h
      cases h
    · rw [if_neg h9, byteAt_take b (by omega)] at h
      rwa [if_neg (by omega)]
  · rwa [if_neg hm] at h ⊢

/-- Settles O46: more bytes counted change neither the layout length nor the fields, and DECREQ asks for the exact length. -/
theorem trailingBytesAreIgnoredByDecrplOnly : Obligations.TrailingBytesAreIgnoredByDecrplOnly := by
  intro s t m hp hm hb
  refine ⟨fun h hok => ?_, fun h hok hlt => ?_⟩
  · obtain ⟨d, hd, rfl⟩ := decodeReply_of_status_ok h hok
    obtain ⟨-, h2, -⟩ := decodeReply_ok hd
    rw [exec_decrpl_of_ok (decodeReply_longer hp hb hm hd), result_longer hm h2]
  · obtain ⟨d, hd, -⟩ := decodeRequest_of_status_ok h hok
    obtain ⟨-, h4, -⟩ := decodeRequest_ok hd
    have hlen := requestLength_of_ok (s := { s with fbLen := m }) hp.1 hd
    rw [frame_shorter hm] at hlen
    refine ⟨_, exec_decreq s, Bool.eq_false_iff.2 fun hok' => ?_⟩
    obtain ⟨d', hd', -⟩ := decodeRequest_of_status_ok (exec_decreq s) hok'
    exact hlt.ne (Except.ok.inj ((requestLength_longer h4 hm hlen).symm.trans (requestLength_of_ok hp.1 hd')))

end Sys2Proof.Machine
end

section
/-! SUPPORT. RXLEN (42_decoder.md R222, R223): the length it predicts, and that it agrees with DECRPL on a reply that is all
there. -/

namespace Sys2Proof.Machine

variable {s : State} {x : Nat}

/-! ### The formula -/

/-- A constant and a byte count add up without overflow. -/
theorem ofNat_add_zext16 (c : Nat) (b : Byte) : BitVec.ofNat 16 c + zext16 b = BitVec.ofNat 16 (c + b.toNat) := by
  have hb : zext16 b = BitVec.ofNat 16 b.toNat := BitVec.eq_of_toNat_eq (by simp; omega)
  rw [hb, BitVec.ofNat_add]

/-- The formula by function code, over `Nat` (42_decoder.md R222). -/
theorem replyFormula_eq (p : Params) (fc b : Byte) : replyFormula p fc b =
    if fc = p.fcQuery ∨ fc = p.fcRead then some (BitVec.ofNat 16 (5 + b.toNat))
    else if fc = p.fcWrite then some (BitVec.ofNat 16 8)
    else if fc = p.fcWritem then
      (if p.xlenWritemRule = .docFormula then some (BitVec.ofNat 16 (7 + b.toNat)) else some (BitVec.ofNat 16 8))
    else none := by
  rw [replyFormula, ← ofNat_add_zext16, ← ofNat_add_zext16]
  cases p.xlenWritemRule <;> rfl

theorem replyFormula_of_byteCount {p : Params} {fc b : Byte} (h : fc = p.fcQuery ∨ fc = p.fcRead) :
    replyFormula p fc b = some (BitVec.ofNat 16 (5 + b.toNat)) := by rw [replyFormula_eq, if_pos h]

theorem replyFormula_of_fcWrite {p : Params} {fc b : Byte} (hp : p.codesDistinct) (h : fc = p.fcWrite) :
    replyFormula p fc b = some (BitVec.ofNat 16 8) := by
  obtain ⟨-, hqw, -, hrw, -⟩ := hp
  simp [replyFormula_eq, h, hqw.symm, hrw.symm]

theorem replyFormula_of_layout {p : Params} {fc b : Byte} (hp : p.codesDistinct) (h : fc = p.fcWritem)
    (hrule : p.xlenWritemRule = .layout) : replyFormula p fc b = some (BitVec.ofNat 16 8) := by
  obtain ⟨-, -, hqm, -, hrm, hwm⟩ := hp
  simp [replyFormula_eq, h, hqm.symm, hrm.symm, hwm.symm, hrule]

/-- What RXLEN leaves once it has a formula that gives `x` (42_decoder.md R222). -/
def lengthKnown (x : Nat) (s : State) : State :=
  { s with xlen := BitVec.ofNat 16 x, status := if x ≤ s.fbLen.toNat then 0x0601 else 0x0201 }

theorem predictLength_of_some (hx : x < 65536)
    (h : replyFormula s.params (byteAt s.fb 1) (byteAt s.fb 2) = some (BitVec.ofNat 16 x)) :
    predictLength s = lengthKnown x s := by
  have hle : BitVec.ofNat 16 x ≤ s.fbLen ↔ x ≤ s.fbLen.toNat := by
    rw [BitVec.le_def, BitVec.toNat_ofNat, Nat.mod_eq_of_lt hx]
  rw [predictLength, h]
  by_cases hdone : x ≤ s.fbLen.toNat
  · simp [lengthKnown, bitIf, hle, hdone]
  · simp [lengthKnown, bitIf, hle, hdone]

theorem predictLength_of_none (h : replyFormula s.params (byteAt s.fb 1) (byteAt s.fb 2) = none) :
    predictLength s = { s with xlen := s.params.minReply, status := 0x0608 } := by
  rw [predictLength, h]
  simp

/-- The prediction by function code; no length is past 16 bits (42_decoder.md R222, R223). -/
theorem predictLength_eq (s : State) : predictLength s =
    if byteAt s.fb 1 = s.params.fcQuery ∨ byteAt s.fb 1 = s.params.fcRead then lengthKnown (5 + (byteAt s.fb 2).toNat) s
    else if byteAt s.fb 1 = s.params.fcWrite then lengthKnown 8 s
    else if byteAt s.fb 1 = s.params.fcWritem then
      (if s.params.xlenWritemRule = .docFormula then lengthKnown (7 + (byteAt s.fb 2).toNat) s else lengthKnown 8 s)
    else { s with xlen := s.params.minReply, status := 0x0608 } := by
  have hformula := replyFormula_eq s.params (byteAt s.fb 1) (byteAt s.fb 2)
  split_ifs at hformula ⊢
  · exact predictLength_of_some (by omega) hformula
  · exact predictLength_of_some (by omega) hformula
  · exact predictLength_of_some (by omega) hformula
  · exact predictLength_of_some (by omega) hformula
  · exact predictLength_of_none hformula

/-- `RXLEN`, its two checks and the prediction (42_decoder.md R222). -/
theorem exec_rxlen (s : State) : exec .rxlen s = .next
    (if s.params.fbSize.toNat < s.fbLen.toNat then { s with xlen := 0, status := 0x0004 }
     else if s.fbLen.toNat < s.params.minReply.toNat then { s with xlen := s.params.minReply, status := 0x0001 }
     else predictLength s) := by
  rw [exec, execRxlen, statusWord_lenErr, statusWord_ok]
  simp only [bufferInBound, not_le, BitVec.lt_def, ← apply_ite Host.Outcome.next]
  rfl

/-- Settles O50: the two checks, then the prediction by function code. -/
theorem rxlenGivesTheExpectedLength : Obligations.RxlenGivesTheExpectedLength := by
  refine ⟨rfl, fun s _ => ?_⟩
  rw [exec_rxlen, predictLength_eq]
  rfl

/-! ### Agreement with DECRPL -/

/-- RXLEN on a buffer that holds all the bytes its formula gives. -/
theorem exec_rxlen_of_complete (hb : bufferInBound s) (hmin : s.params.minReply.toNat ≤ s.fbLen.toNat)
    (hx : x ≤ s.fbLen.toNat) (h : replyFormula s.params (byteAt s.fb 1) (byteAt s.fb 2) = some (BitVec.ofNat 16 x)) :
    ∃ u, exec .rxlen s = .next u ∧ u.status = 0x0601 ∧ u.xlen.toNat = x := by
  have hlt : x < 65536 := by omega
  rw [exec_rxlen, if_neg (not_lt.2 hb), if_neg (not_lt.2 hmin), predictLength_of_some hlt h, lengthKnown, if_pos hx]
  exact ⟨_, rfl, rfl, Nat.mod_eq_of_lt hlt⟩

/-- Settles O51: for each reply DECRPL accepts, its layout length is what the formula gives, and all of it is there. -/
theorem rxlenAgreesWithTheLayout : Obligations.RxlenAgreesWithTheLayout := by
  intro s t hp h hok hmin hrule
  obtain ⟨d, hd, rfl⟩ := decodeReply_of_status_ok h hok
  obtain ⟨hb, -, hcases⟩ := decodeReply_ok hd
  have h3 : 3 ≤ s.fbLen.toNat := hp.2.1.1.trans hmin
  have hcode : byteAt (frame s) 1 = byteAt s.fb 1 := byteAt_take _ (by omega)
  have hcount : byteAt (frame s) 2 = byteAt s.fb 2 := byteAt_take _ (by omega)
  rw [hcode, hcount] at hcases
  obtain ⟨hfc, hn, -, hi⟩ | ⟨hfc, hn, -, hr⟩ | ⟨hfc, hn, -, rfl⟩ | ⟨hfc, hn, -, rfl⟩ := hcases
  · obtain ⟨u, hu, hstatus, hxlen⟩ := exec_rxlen_of_complete hb hmin hn (replyFormula_of_byteCount (.inl hfc))
    obtain ⟨-, rfl⟩ := idFields_ok hi
    rw [← hcount] at hxlen
    exact ⟨u, hu, hstatus, hxlen.trans (if_pos (Or.inl rfl)).symm⟩
  · obtain ⟨u, hu, hstatus, hxlen⟩ := exec_rxlen_of_complete hb hmin hn (replyFormula_of_byteCount (.inr hfc))
    obtain ⟨-, rfl⟩ := readReplyFields_ok hr
    rw [← hcount] at hxlen
    exact ⟨u, hu, hstatus, hxlen.trans (if_pos (Or.inr rfl)).symm⟩
  · obtain ⟨u, hu, hstatus, hxlen⟩ := exec_rxlen_of_complete hb hmin hn (replyFormula_of_fcWrite hp.1 hfc)
    exact ⟨u, hu, hstatus, hxlen.trans (if_neg (by decide : ¬ (kindRplWrite = 5 ∨ kindRplWrite = 6))).symm⟩
  · have hlayout := hrule.resolve_left (not_not.2 rfl)
    obtain ⟨u, hu, hstatus, hxlen⟩ := exec_rxlen_of_complete hb hmin hn (replyFormula_of_layout hp.1 hfc hlayout)
    exact ⟨u, hu, hstatus, hxlen.trans (if_neg (by decide : ¬ (kindRplWritem = 5 ∨ kindRplWritem = 6))).symm⟩

end Sys2Proof.Machine
end

section
/-! SUPPORT. The errors of 60_exceptions.md: the commands and the error bits each can set (R242), and that every step and every
command answers (R253). -/

namespace Sys2Proof.Machine

variable {i : Instr} {s t : State} {k : Nat}

/-! ### Every step answers -/

theorem exec_answers (i : Instr) (s : State) : Answers (exec i s) := (exec_end i s).imp fun _ h => h.1

theorem serve_answers (a : HostAccess) (s : State) : Answers (serve a s) := (serve_end a s).imp fun _ h => h.1

/-- Settles O6: an idle step answers the same state, and every host access and every command answers. -/
theorem everyStepAnswers : Obligations.EveryStepAnswers := by
  refine ⟨fun s => ?_, exec_answers⟩
  cases hp : s.pending with
  | nil => exact ⟨s, step_idle hp⟩
  | cons a rest => exact step_serve hp ▸ serve_answers a { s with pending := rest }

/-! ### The values of `STATUS` by command -/

/-- The values of `STATUS` among which each command leaves one (`exec_status`; 10_state.md R31). -/
def statusesOf : Instr → List Word
  | .crc16 => [0x0001, 0x0004]
  | .crcchk => [0x0001, 0x0002, 0x0004]
  | .encq | .encwr | .encrwr | .encrwm => [0x0001]
  | .encrd => [0x0001, 0x0101]
  | .encwm | .encrid | .encrrd => [0x0001, 0x0040]
  | .decreq => [0x0001, 0x0101, 0x0002, 0x0004, 0x0008, 0x0010, 0x0020]
  | .decrpl => [0x0001, 0x0002, 0x0004, 0x0008, 0x0010]
  | .rxlen => rxlenStatuses

theorem exec_crc16_status (h : exec .crc16 s = .next t) : t.status ∈ [0x0001#16, 0x0004] := by
  rw [exec_crc16] at h
  cases h
  split <;> simp

/-- An encoder with a check leaves `OK` or `USAGE_ERR` (41_encoder.md R156 to R158). -/
theorem checked_encoder_status {c : Prop} [Decidable c] {body : List Byte}
    (h : (if c then .next (usageError s) else .next (emit body [] s) : Host.Outcome State Fault Refusal) = .next t) :
    t.status ∈ [0x0001#16, 0x0040] := by
  split at h <;> cases h <;> simp

theorem exec_encrd_status (h : exec .encrd s = .next t) : t.status ∈ [0x0001#16, 0x0101] := by
  rw [exec_encrd] at h
  cases h
  by_cases hc : clamp s.arg1 = s.arg1 <;> simp [bitIf, hc]

theorem exec_decreq_status (h : exec .decreq s = .next t) : t.status ∈ statusesOf .decreq := by
  cases decoderEnd_of_exec (.inl rfl) h with
  | result d hd => obtain hok | hok := statusWord_ok_extra hd.extra <;> simp [hok, statusesOf]
  | sentinel err herr => exact List.mem_append_right [0x0001, 0x0101] (statusWord_decodeError herr)

/-- DECRPL checks no address and clamps no count (42_decoder.md R199). -/
theorem exec_decrpl_status (h : exec .decrpl s = .next t) : t.status ∈ statusesOf .decrpl := by
  cases h
  rw [finishDecode_status, decodeReply_eq, replyVerdict_eq, replyFields]
  simp only [apply_ite verdictStatus, verdictStatus_error, verdictStatus_idFields, verdictStatus_readReplyFields,
    verdictStatus_twoFields, statusWord_lenErr, statusWord_crcErr, statusWord_fcErr]
  split_ifs <;> decide

theorem exec_status (h : exec i s = .next t) : t.status ∈ statusesOf i := by
  cases i with
  | crc16 => exact exec_crc16_status h
  | crcchk => exact crcUnit_status (crcUnitEnd_of_exec (.inr rfl) h)
  | encq | encwr | encrwr | encrwm => cases h; exact List.mem_singleton.2 statusWord_ok
  | encrd => exact exec_encrd_status h
  | encwm => exact checked_encoder_status (exec_encwm s ▸ h)
  | encrid => exact checked_encoder_status (exec_encrid s ▸ h)
  | encrrd => exact checked_encoder_status (exec_encrrd s ▸ h)
  | decreq => exact exec_decreq_status h
  | decrpl => exact exec_decrpl_status h
  | rxlen => exact rxlen_status (rxlenEnd_of_exec h)

/-! ### The list is complete -/

/-- Each command with each error bit it can set (60_exceptions.md R242). -/
def listedErrors : List (Instr × Nat) :=
  [(.crc16, 2), (.crcchk, 2), (.crcchk, 1), (.encwm, 6), (.encrid, 6), (.encrrd, 6),
    (.decreq, 2), (.decreq, 5), (.decreq, 1), (.decreq, 3), (.decreq, 4),
    (.decrpl, 2), (.decrpl, 3), (.decrpl, 1), (.decrpl, 4), (.rxlen, 2), (.rxlen, 3)]

/-- The error bits of a value that a command leaves are listed for that command. -/
theorem listed_of_mem_statusesOf (i : Instr) :
    ∀ w ∈ statusesOf i, ∀ k ∈ Finset.Icc 1 7, w.getLsbD k = true → (i, k) ∈ listedErrors := by
  cases i <;> exact forall_mem_of_all (by decide)

/-! ### Each listed error occurs -/

/-- Whether the command sets that bit of `STATUS`. -/
def raises (i : Instr) (k : Nat) (s : State) : Bool :=
  match exec i s with
  | .next t => t.status.getLsbD k
  | _ => false

theorem exists_of_raises (h : raises i k s = true) : ∃ t, exec i s = .next t ∧ t.status.getLsbD k = true := by
  obtain ⟨t, ht⟩ := exec_answers i s
  exact ⟨t, ht, by simpa only [raises, ht] using h⟩

/-- The block after reset, with each of the three lengths one past its array. -/
def overlong : State := { State.reset with fbLen := 264, valN := 128, strLen := 254 }

/-- The block after reset, with these bytes received in the buffer. -/
def received (bytes : List Byte) : State :=
  { State.reset with fb := storeAtFront bytes State.reset.fb, fbLen := BitVec.ofNat 16 bytes.length }

theorem overlong_sound : Sound overlong :=
  ⟨resetMeetsTheInvariant.params, resetMeetsTheInvariant.memory, .inl rfl, resetMeetsTheInvariant.resKind⟩

theorem received_sound {bytes : List Byte} (h : bytes.length ≤ 263) : Sound (received bytes) := by
  obtain ⟨hfb, hval, hstr⟩ := reset_wf
  have hlen : (received bytes).fb.length = State.reset.fb.length := storeAtFront_length _ _ (hfb ▸ h)
  exact ⟨resetMeetsTheInvariant.params, ⟨hlen.trans hfb, hval, hstr⟩, .inl rfl, resetMeetsTheInvariant.resKind⟩

/-- A write reply with a wrong last byte, for `CRC_ERR`. -/
def corruptedFrame : List Byte := [0x01, 0x06, 0x00, 0x01, 0x00, 0x03, 0x98, 0x0C]

/-- A valid frame with function code `0x83`, for `FC_ERR` (95_test_vectors.md 2.5). -/
def unsupportedFrame : List Byte := [0x01, 0x83, 0x02, 0xC0, 0xF1]

/-- A valid write-multiple request for three values with a byte count of 4, for `FMT_ERR`. -/
def wrongCountRequest : List Byte := [0x01, 0x10, 0x00, 0x01, 0x00, 0x03, 0x04, 0x00, 0x0A, 0x01, 0x02, 0x93, 0xE1]

/-- A valid read reply with an odd byte count, for `FMT_ERR`. -/
def oddCountReply : List Byte := [0x01, 0x03, 0x03, 0x00, 0x01, 0x02, 0xC5, 0xDF]

/-- A valid query for the device `0xF7`, for `ADDR_ERR`. -/
def foreignQuery : List Byte := [0xF7, 0x11, 0x87, 0x8C]

/-- A state in which the command sets the error bit, for each listed pair. -/
def errorExample : Instr → Nat → State
  | _, 1 => received corruptedFrame
  | _, 3 => received unsupportedFrame
  | .decreq, 4 => received wrongCountRequest
  | _, 4 => received oddCountReply
  | _, 5 => received foreignQuery
  | _, _ => overlong

theorem errorExample_sound (i : Instr) (k : Nat) : Sound (errorExample i k) := by
  unfold errorExample
  split
  · exact received_sound (by decide)
  · exact received_sound (by decide)
  · exact received_sound (by decide)
  · exact received_sound (by decide)
  · exact received_sound (by decide)
  · exact overlong_sound

theorem raises_errorExample : ∀ e ∈ listedErrors, raises e.1 e.2 (errorExample e.1 e.2) = true := by decide +kernel

/-- Settles O54: each value a command leaves in `STATUS` has only listed error bits, and each listed error is raised in its
example. -/
theorem commandsRaiseTheListedErrors : Obligations.CommandsRaiseTheListedErrors := by
  constructor
  · intro i s t k h hlo hhi hbit
    exact listed_of_mem_statusesOf i t.status (exec_status h) k (Finset.mem_Icc.2 ⟨hlo, hhi⟩) hbit
  · intro i k hmem
    exact ⟨errorExample i k, (exists_of_raises (raises_errorExample _ hmem)).imp fun _ h => ⟨errorExample_sound i k, h⟩⟩

end Sys2Proof.Machine
end

section
/-! SUPPORT. The hazards of 70_reset_and_hazards.md: the length RXLEN predicts for the reply of ENCRWM (R277), and the cells past
the frame, which no length field brings into use (R279). -/

namespace Sys2Proof.Machine

variable {i : Instr} {s t : State} {body cells : List Byte} {x k : Nat}

/-! ### The length of a write-multiple reply (R277) -/

/-- Under `DOC_FORMULA` a write-multiple reply gets 7 plus its byte at offset 2 (42_decoder.md R222, 90_conflicts.md C2). -/
theorem replyFormula_of_docFormula {p : Params} {fc b : Byte} (hp : p.codesDistinct) (h : fc = p.fcWritem)
    (hrule : p.xlenWritemRule = .docFormula) : replyFormula p fc b = some (BitVec.ofNat 16 (7 + b.toNat)) := by
  obtain ⟨-, -, hqm, -, hrm, hwm⟩ := hp
  simp [replyFormula_eq, h, hqm.symm, hrm.symm, hwm.symm, hrule]

/-- The body stands at the front of the buffer after an encoder (41_encoder.md R150). -/
theorem byteAt_fb_emit (extra : List StatusBit) (s : State) (h : k < body.length) :
    byteAt (emit body extra s).fb k = byteAt body k :=
  (storeAtFront_getD_written _ _ _ (by rw [appendCrc_length]; omega)).trans (byteAt_appendCrc h)

/-- The state ENCRWM leaves: 8 bytes counted, the function code and the high byte of the address at offsets 1 and 2
(41_encoder.md R160). -/
theorem exec_encrwm_buffer (hp : s.params.wf) : ∃ t, exec .encrwm s = .next t ∧ t.params = s.params ∧ t.fbLen = 8 ∧
    bufferInBound t ∧ byteAt t.fb 1 = s.params.fcWritem ∧ byteAt t.fb 2 = hi8 s.arg0 :=
  ⟨_, exec_encrwm s, rfl, rfl, (twoFieldBody_encodable s _ _ _).bufferInBound hp [],
    byteAt_fb_emit [] s (by simp [twoFieldBody]), byteAt_fb_emit [] s (by simp [twoFieldBody])⟩

/-- RXLEN right after ENCRWM leaves the length of the formula, done when it is at most 8. -/
theorem thenRuns_encrwm_rxlen (hp : s.params.wf) (hmin : s.params.minReply.toNat ≤ 8) (hx : x < 65536)
    (hformula : replyFormula s.params s.params.fcWritem (hi8 s.arg0) = some (BitVec.ofNat 16 x)) :
    Claims.ThenRuns .encrwm .rxlen s fun u =>
      u.fbLen = 8 ∧ u.xlen = BitVec.ofNat 16 x ∧ u.status = if x ≤ 8 then 0x0601 else 0x0201 := by
  obtain ⟨t, ht, hparams, hlen, hb, hcode, haddr⟩ := exec_encrwm_buffer hp
  have hpredict : predictLength t = lengthKnown x t := predictLength_of_some hx (by rw [hparams, hcode, haddr, hformula])
  have hlen8 : t.fbLen.toNat = 8 := congrArg BitVec.toNat hlen
  have hrx : exec .rxlen t = .next (lengthKnown x t) := by
    rw [exec_rxlen, if_neg (not_lt.2 hb), if_neg (by rw [hparams, hlen8]; omega), hpredict]
  exact ⟨t, lengthKnown x t, ht, hrx, hlen, rfl, by rw [lengthKnown, hlen8]⟩

/-- DECRPL on a write-multiple reply of which fewer than 8 bytes are counted (42_decoder.md R199, 30_encoding.md R93). -/
theorem decodeReply_of_short_fcWritem (hp : s.params.wf) (h2 : 2 ≤ s.fbLen.toNat) (h8 : s.fbLen.toNat < 8)
    (hcode : byteAt s.fb 1 = s.params.fcWritem) : decodeReply s = .error .lenErr := by
  obtain ⟨hdistinct, -, hsize, -⟩ := hp
  have hfc : byteAt (frame s) 1 = s.params.fcWritem := (byteAt_take s.fb h2).trans hcode
  obtain ⟨hlen, -⟩ := reply_of_fcWritem (n := s.fbLen.toNat) hdistinct hfc
  rw [decodeReply, if_pos (by omega), replyVerdict, if_neg (by omega), hlen]
  exact if_pos h8

/-- The first 7 bytes of the reply of ENCRWM are one too few for DECRPL. -/
theorem encrwm_decrpl_seven (hp : s.params.wf) :
    ∃ t u, exec .encrwm s = .next t ∧ exec .decrpl { t with fbLen := 7 } = .next u ∧ u.status = 0x0004 := by
  obtain ⟨t, ht, hparams, -, -, hcode, -⟩ := exec_encrwm_buffer hp
  have hseven : ({ t with fbLen := 7 } : State).fbLen.toNat = 7 := rfl
  have hdec : decodeReply { t with fbLen := 7 } = .error .lenErr :=
    decodeReply_of_short_fcWritem (hparams.symm ▸ hp) (by omega) (by omega) (hcode.trans (by rw [hparams]))
  exact ⟨t, _, ht, exec_decrpl_of_error hdec, statusWord_lenErr⟩

/-- Settles O52: the byte RXLEN's formula reads is the high byte of the address, and the frame has 8 bytes whatever it is. -/
theorem writeMultipleReplyLengthHazard : Obligations.WriteMultipleReplyLengthHazard := by
  intro s hp hmin
  refine ⟨fun hrule => ?_, fun hrule => ?_, encrwm_decrpl_seven hp⟩
  · have hhi := hi8_toNat s.arg0
    obtain ⟨t, u, ht, hu, hlen, hxlen, hstatus⟩ :=
      thenRuns_encrwm_rxlen hp hmin (by omega) (replyFormula_of_docFormula hp.1 rfl hrule)
    refine ⟨t, u, ht, hu, hlen, ?_, ?_⟩
    · rw [hxlen, BitVec.toNat_ofNat]
      omega
    · have hdone : 7 + (hi8 s.arg0).toNat ≤ 8 ↔ s.arg0.toNat < 0x0200 := by omega
      rw [hstatus, ← hdone]
      by_cases h : 7 + (hi8 s.arg0).toNat ≤ 8 <;> simp [h]
  · obtain ⟨t, u, ht, hu, -, hxlen, hstatus⟩ :=
      thenRuns_encrwm_rxlen hp hmin (by decide) (replyFormula_of_layout hp.1 rfl hrule)
    exact ⟨t, u, ht, hu, hxlen, hstatus⟩

/-! ### The cells past the frame (R279) -/

/-- RXLEN inspects the bytes at offsets 1 and 2 and no other cell (42_decoder.md R222). -/
theorem predictLength_withCells (h1 : byteAt cells 1 = byteAt s.fb 1) (h2 : byteAt cells 2 = byteAt s.fb 2) :
    predictLength { s with fb := cells } = { predictLength s with fb := cells } := by
  rw [predictLength, predictLength, h1, h2]
  cases replyFormula s.params (byteAt s.fb 1) (byteAt s.fb 2) <;> rfl

section
variable (hframe : bufferInBound s → frame s = frame { s with fb := cells })
include hframe

theorem crcUnit_withCells (hi : i = .crc16 ∨ i = .crcchk) (h : exec i s = .next t) :
    exec i { s with fb := cells } = .next { t with fb := cells } := by
  obtain rfl | rfl := hi
  all_goals
    simp only [exec_crc16, exec_crcchk] at h ⊢
    cases h
    by_cases hb : bufferInBound s
    · simp only [if_neg (not_lt.2 hb), ← hframe hb]
    · simp only [if_pos (not_le.1 hb)]

/-- A verdict accepts only a frame within the buffer, so `RES_ADDR` and `RES_FC` come from cells of the frame. -/
theorem finishDecode_withCells {verdict : Except StatusBit Decoded} (hok : ∀ d, verdict = .ok d → bufferInBound s) :
    finishDecode verdict { s with fb := cells } = { finishDecode verdict s with fb := cells } := by
  cases verdict with
  | ok d => rw [finishDecode, finishDecode, result, result, ← hframe (hok d rfl)]
  | error err => rfl

theorem exec_decreq_withCells (h : exec .decreq s = .next t) :
    exec .decreq { s with fb := cells } = .next { t with fb := cells } := by
  have hsame : decodeRequest s = decodeRequest { s with fb := cells } := decodeRequest_congr ⟨rfl, rfl, rfl, hframe⟩
  cases h
  rw [exec_decreq, ← hsame, finishDecode_withCells hframe fun d hd => (decodeRequest_ok hd).1]

theorem exec_decrpl_withCells (h : exec .decrpl s = .next t) :
    exec .decrpl { s with fb := cells } = .next { t with fb := cells } := by
  have hsame : decodeReply s = decodeReply { s with fb := cells } := decodeReply_congr ⟨rfl, rfl, hframe⟩
  cases h
  rw [exec_decrpl, ← hsame, finishDecode_withCells hframe fun d hd => (decodeReply_ok hd).1]

/-- A cell counted by `FB_LEN` is a cell of the frame. -/
theorem byteAt_withCells (hb : bufferInBound s) (hk : k < s.fbLen.toNat) : byteAt cells k = byteAt s.fb k := by
  rw [← byteAt_take cells hk, ← byteAt_take s.fb hk]
  exact congrArg (byteAt · k) (hframe hb).symm

/-- RXLEN inspects a header only when at least `MIN_REPLY` bytes, 3 or more, are counted (00_scope.md R7, 42_decoder.md R222). -/
theorem exec_rxlen_withCells (hp : s.params.wf) (h : exec .rxlen s = .next t) :
    exec .rxlen { s with fb := cells } = .next { t with fb := cells } := by
  obtain ⟨-, ⟨h3, -⟩, -⟩ := hp
  rw [exec_rxlen] at h ⊢
  cases h
  by_cases hb : bufferInBound s
  · by_cases hmin : s.fbLen.toNat < s.params.minReply.toNat
    · simp only [if_neg (not_lt.2 hb), if_pos hmin]
    · have hpredict := predictLength_withCells (byteAt_withCells (k := 1) hframe hb (by omega))
        (byteAt_withCells (k := 2) hframe hb (by omega))
      simp only [if_neg (not_lt.2 hb), if_neg hmin, hpredict]
  · simp only [if_pos (not_le.1 hb)]

end

/-- Settles O58: the two states have the same frame when it is within the buffer, and each command reads no more than that. -/
theorem cellsPastTheFrameAreNeverRead : Obligations.CellsPastTheFrameAreNeverRead := by
  intro i s t cells hp hcells hi h
  have hframe : bufferInBound s → frame s = frame { s with fb := cells } := fun hb => (hcells hb).symm
  obtain rfl | rfl | rfl | rfl | rfl := hi
  · exact crcUnit_withCells hframe (.inl rfl) h
  · exact crcUnit_withCells hframe (.inr rfl) h
  · exact exec_decreq_withCells hframe h
  · exact exec_decrpl_withCells hframe h
  · exact exec_rxlen_withCells hframe hp h

end Sys2Proof.Machine
end
